-- ==== Sys2Proof/Word.lean ====
section
/-! DEFINITION. The byte, IBF's only word (spec/00_scope.md R10; spec/20_memory.md R63: no field is wider than one byte). -/

namespace Sys2Proof

/-- A byte: an unsigned 8-bit value, bit 0 the least significant (R10). -/
abbrev Byte := BitVec 8

/-- Bit `n` of a byte is set: `(v >> n) & 1 = 1` (R10). -/
def Byte.bit (v : Byte) (n : Nat) : Bool := v.getLsbD n

end Sys2Proof
end

