-- ==== Sys2Proof/Machine/Data.lean ====
section
/-! DEFINITION. The typed data of IBF (spec/30_encoding.md section 2, spec/10_state.md, spec/45 R280): plain inductive types and
records, with the names of the spec. -/

namespace Sys2Proof

/-- The two frame pools (spec/10_state.md R20). -/
inductive Pool where
  | prx | ptx
deriving DecidableEq, Repr, Inhabited

/-- A value offered as a handle: a pool and an index. It names a slot of pool `P` when `pool = P` and the index is in range;
any other value is "an unrecognized handle" (spec/10_state.md R25). -/
structure Handle where
  pool : Pool
  idx : Nat
deriving DecidableEq, Repr, Inhabited

/-- Status tag of a received run (spec/30_encoding.md R95). -/
inductive Tag where
  | ok | parityError | bufferOverrun
deriving DecidableEq, Repr, Inhabited

/-- `Fwd` is next or forward, `Rev` previous or backward (spec/30_encoding.md R96). -/
inductive Direction where
  | fwd | rev
deriving DecidableEq, Repr, Inhabited

/-- `Off`, `On` (spec/30_encoding.md R96). -/
inductive OnOff where
  | off | on
deriving DecidableEq, Repr, Inhabited

/-- A disc position 1..6 (spec/30_encoding.md R97, R99; `N_DISCS = 6`). -/
inductive Disc where
  | d1 | d2 | d3 | d4 | d5 | d6
deriving DecidableEq, Repr, Inhabited

/-- The six positions in order (spec/45_host_changer_fsm.md R292: `for i = 1 to 6`). -/
def Disc.all : List Disc := [.d1, .d2, .d3, .d4, .d5, .d6]

/-- The position's number. -/
def Disc.toNat : Disc → Nat
  | .d1 => 1 | .d2 => 2 | .d3 => 3 | .d4 => 4 | .d5 => 5 | .d6 => 6

/-- A typed command (spec/30_encoding.md R97): 11 constructors, 20 values. -/
inductive TypedCommand where
  | status | stop | pause | play
  | fastPlay (d : Direction)
  | seek (d : Direction)
  | changeDisc (n : Disc)
  | scanDisc (s : OnOff)
  | randomize (s : OnOff)
  | poll
  | traffic
deriving DecidableEq, Repr, Inhabited

/-- The four fields every typed status carries (spec/30_encoding.md R99; `audio_state` is opaque, R100). -/
structure Common where
  audioState : Byte
  discBitmap : Byte
  currentDisc : Byte
  currentTrack : Byte
deriving DecidableEq, Repr, Inhabited

/-- The nine variants of a typed status (spec/30_encoding.md R99). -/
inductive Variant where
  | stopped | paused | playing
  | fastPlaying (d : Direction)
  | seeking (d : Direction)
  | loadingDisc
  | checkingForDisc (mask : Byte) (disc : Disc) (lastFailed : Bool)
  | announce
  | pollResponse
deriving DecidableEq, Repr, Inhabited

/-- A typed status: a variant and the common fields, present on every variant (spec/30_encoding.md R99). -/
structure TypedStatus where
  variant : Variant
  common : Common
deriving DecidableEq, Repr, Inhabited

/-- The eleven status cases a template is given for (spec/30_encoding.md R111). -/
inductive StatusCase where
  | stopped | paused | playing | fastPlayingF | fastPlayingR | seekingF | seekingR
  | loadingDisc | checkingForDisc | announce | pollResponse
deriving DecidableEq, Repr, Inhabited

/-- `case(s)` (spec/44_status_encoder.md R252). -/
def Variant.case : Variant → StatusCase
  | .stopped => .stopped
  | .paused => .paused
  | .playing => .playing
  | .fastPlaying .fwd => .fastPlayingF
  | .fastPlaying .rev => .fastPlayingR
  | .seeking .fwd => .seekingF
  | .seeking .rev => .seekingR
  | .loadingDisc => .loadingDisc
  | .checkingForDisc _ _ _ => .checkingForDisc
  | .announce => .announce
  | .pollResponse => .pollResponse

/-- A template item (spec/30_encoding.md R111). -/
inductive Item where
  | k (c : Byte)
  | audio | bitmap | disc | track
  | err (c0 c1 : Byte)
deriving DecidableEq, Repr, Inhabited

/-- The destination of a template: a bus address by the name of its parameter, or a byte (spec/30_encoding.md R111). R112 gives its
destinations by name, so they follow the parameters (DEDUCED, log 33). -/
inductive Dest where
  | radioAddr | bcastLo | bcastHi
  | byte (b : Byte)
deriving DecidableEq, Repr, Inhabited

/-- A template: a destination and its payload's items (spec/30_encoding.md R111). -/
structure Template where
  dest : Dest
  items : List Item
deriving DecidableEq, Repr, Inhabited

/-- The record of a frame (spec/30_encoding.md R90). -/
structure Frame where
  source : Byte
  length : Byte
  destination : Byte
  payload : List Byte
  checksum : Byte
deriving DecidableEq, Repr, Inhabited

/-- The TX sequencer's states (spec/10_state.md R33). -/
inductive Txs where
  | idle | sending | gap
deriving DecidableEq, Repr, Inhabited

/-- The reason carried by the "transfer complete" semaphore (spec/10_state.md R36). -/
inductive Wake where
  | none | done | collision
deriving DecidableEq, Repr, Inhabited

/-- A transmit event of the history `line_out` (spec/10_state.md R45). `start h`: a transfer of PTX slot `h` began. -/
inductive LineEvent where
  | start (h : Nat)
  | byte (b : Byte)
  | complete
  | abort (k : Nat)
deriving DecidableEq, Repr, Inhabited

/-- An environment event of the history `rx_in` (spec/10_state.md R45). -/
inductive EnvEvent where
  | rxByte (b : Byte)
  | rxParityErr
  | rxIdle
  | ctsRise
  | ctsFall
deriving DecidableEq, Repr, Inhabited

/-- The causes of spec/60_exceptions.md R311. No architectural state records one. -/
inductive Cause where
  | parityErrorRun | overrunRun | shortRun | badChecksum | lengthMismatch | rxNoSlot | selfEcho | unrecognised
  | dataOutOfRange | payloadEmpty | payloadTooLong | poolFull | cmdqFull | collision
deriving DecidableEq, Repr, Inhabited

/-- The seven agents (spec/00_scope.md R16). -/
inductive Agent where
  | line | rxa | rxt | txt | dma | arb | host
deriving DecidableEq, Repr, Inhabited

/-- Execution contexts (spec/60_exceptions.md R330; `hardware` for what runs beside the processor, R334; `pure` for a function
that is no step of any agent, spec/30_encoding.md R118). -/
inductive Context where
  | interrupt | task | hardware | pure
deriving DecidableEq, Repr, Inhabited

/-- Host lifecycle (spec/45_host_changer_fsm.md R280). -/
inductive Lifecycle where
  | notConnected | connected
deriving DecidableEq, Repr, Inhabited

/-- Host disc-magazine state (R280). -/
inductive Magazine where
  | noMagazine | noDiscs | enumerating | discsPresent
deriving DecidableEq, Repr, Inhabited

/-- Host play state (R280). -/
inductive Play where
  | stopped | playing | paused
deriving DecidableEq, Repr, Inhabited

/-- The host's `ChangerState` (spec/45_host_changer_fsm.md R280). -/
structure ChangerState where
  lifecycle : Lifecycle
  disc : Magazine
  play : Play
  discBitmap : Byte
  currentDisc : Byte
  currentTrack : Byte
  audioState : Byte
deriving DecidableEq, Repr, Inhabited

/-- Commands forwarded to the playback engine (R285). There is none for `FastPlay`, whose row says "not given" (DESIGN CHOICE, log 32). -/
inductive EngineCmd where
  | play | pause | stop | seekNext | seekPrev
  | changeDisc (n : Disc)
  | scanDisc (s : OnOff)
  | randomize (s : OnOff)
deriving DecidableEq, Repr, Inhabited

/-- Asynchronous events of the playback engine (R286). -/
inductive EngineEvent where
  | playing | paused | stopped | endOfSong | error
deriving DecidableEq, Repr, Inhabited

/-- What an `EndOfSong` or `Error` event does, which R286 leaves open: any track, disc, play and audio state, any statuses. R286's list
does not name commands to the playback engine; D27 says "any host behaviour", and the model leaves them free too (DESIGN CHOICE,
log 18). -/
structure EngineOpen where
  currentTrack : Byte
  currentDisc : Byte
  play : Play
  audioState : Byte
  statuses : List TypedStatus
  forwarded : List EngineCmd
deriving DecidableEq, Repr, Inhabited

/-- What is left of a host step whose emissions may hold (R292, R294): send a variant with the common fields of `cs` at that
moment, send a given status, or end an enumeration of the bitmask `b`. -/
inductive HostAction where
  | send (v : Variant)
  | sendExact (st : TypedStatus)
  | finishEnumeration (b : Byte)
deriving DecidableEq, Repr, Inhabited

/-- The host steps of spec/45_host_changer_fsm.md; `resume` performs the next action of a step in progress. -/
inductive HostStep where
  | boot
  | announceTick
  | cmd
  | engine (e : EngineEvent)
  | sensor (b : Byte)
  | resume
deriving DecidableEq, Repr, Inhabited

end Sys2Proof
end

