-- ==== Sys2Proof/Config.lean ====
section
/-! DEFINITION. The configuration record `Cfg` (spec/00_scope.md R8, R9; spec/70_reset_and_hazards.md R355), its constraints, its
defaults, and the free values. Every rule is written against a field's name; the defaults marked PRESUMED are the spec's
"general knowledge" values (G1 to G5, G7). -/

namespace Sys2Proof

/-- `LEN_CHECK` (R9, D4). -/
inductive LenCheck where
  | strict | none
deriving DecidableEq, Repr, Inhabited

/-- `TRACK_FOLD` (R9, D35). -/
inductive TrackFold where
  | modulo | clamp
deriving DecidableEq, Repr, Inhabited

/-- `UART_CFG` (R9): recorded, read by no rule (spec/20_memory.md R64). -/
structure UartCfg where
  baud : Nat
  dataBits : Nat
  evenParity : Bool
  stopBits : Nat
  lsbFirst : Bool
deriving DecidableEq, Repr, Inhabited

/-- The parameter `TEMPLATE`: one template for each status case (spec/30_encoding.md R111). -/
structure Templates where
  stopped : Template
  paused : Template
  playing : Template
  fastPlayingF : Template
  fastPlayingR : Template
  seekingF : Template
  seekingR : Template
  loadingDisc : Template
  checkingForDisc : Template
  announce : Template
  pollResponse : Template
deriving DecidableEq, Repr, Inhabited

/-- `TEMPLATE(case)`. -/
def Templates.get (t : Templates) : StatusCase → Template
  | .stopped => t.stopped
  | .paused => t.paused
  | .playing => t.playing
  | .fastPlayingF => t.fastPlayingF
  | .fastPlayingR => t.fastPlayingR
  | .seekingF => t.seekingF
  | .seekingR => t.seekingR
  | .loadingDisc => t.loadingDisc
  | .checkingForDisc => t.checkingForDisc
  | .announce => t.announce
  | .pollResponse => t.pollResponse

/-- The configuration record. A direction map `DIR_*` is a bijection of {0,1} onto `Direction` (R9), so it is given by its value
at 0. `announceBudget = none` is "unbounded"; a timer of `none` has no value in the spec. -/
structure Cfg where
  -- R8: values the source gives
  minFrameBytes : Nat := 4
  maxPayload : Nat := 29
  maxPayloadTx : Nat := 20
  lenBias : Nat := 2
  opPoll : Byte := 0x01
  lenPoll : Nat := 3
  opCdc : Byte := 0x38
  lenCdc : Nat := 5
  nDiscs : Nat := 6
  tBackoffMs : Nat := 100
  tGapMs : Nat := 10
  tAnnounceMs : Nat := 1000
  -- R9: open parameters
  nRx : Nat
  nTx : Nat
  rxqCap : Nat
  txqCap : Nat
  cmdqCap : Nat
  slotBytes : Nat
  rxCap : Nat
  tIdle : Option Nat
  lenCheck : LenCheck
  trackFold : TrackFold
  selfAddr : Byte
  radioAddr : Byte
  bcastLo : Byte
  bcastHi : Byte
  subStatus : Byte
  subStop : Byte
  subPause : Byte
  subPlay : Byte
  subFastplay : Byte
  subSeek : Byte
  subAltseek : Byte
  subChangedisc : Byte
  subScandisc : Byte
  subRandomize : Byte
  dirFastplay0 : Direction
  dirSeek0 : Direction
  dirAltseek0 : Direction
  template : Templates
  announceBudget : Option Nat
  tProbe : Option Nat
  uart : UartCfg
  -- the host's `AUDIO_OF` (spec/45_host_changer_fsm.md R281)
  audioStopped : Byte
  audioPlaying : Byte
  audioPaused : Byte
deriving DecidableEq, Repr

/-- `MAX_FRAME_TX = MAX_PAYLOAD_TX + 4` (R8). -/
def Cfg.maxFrameTx (c : Cfg) : Nat := c.maxPayloadTx + 4

/-- Slots of a pool: `N_RX`, `N_TX` (spec/10_state.md R20). -/
def Cfg.slotCount (c : Cfg) : Pool → Nat
  | .prx => c.nRx
  | .ptx => c.nTx

/-- The ten sub-command bytes, in the table's order (spec/30_encoding.md R108). -/
def Cfg.subs (c : Cfg) : List Byte :=
  [c.subStatus, c.subStop, c.subPause, c.subPlay, c.subFastplay, c.subSeek, c.subAltseek, c.subChangedisc, c.subScandisc,
    c.subRandomize]

/-- `OURS = {SELF_ADDR, BCAST_LO, BCAST_HI}` (spec/30_encoding.md R94). -/
def Cfg.ours (c : Cfg) (a : Byte) : Bool := a == c.selfAddr || a == c.bcastLo || a == c.bcastHi

/-- The byte a template's destination stands for (spec/30_encoding.md R94, R111). -/
def Cfg.destByte (c : Cfg) : Dest → Byte
  | .radioAddr => c.radioAddr
  | .bcastLo => c.bcastLo
  | .bcastHi => c.bcastHi
  | .byte b => b

/-- `1 <= len(items) <= MAX_PAYLOAD_TX` (spec/30_encoding.md R111). -/
def Template.sizeOk (maxTx : Nat) (t : Template) : Bool :=
  decide (1 ≤ t.items.length) && decide (t.items.length ≤ maxTx)

/-- An item `ERR(c0, c1)` with `c0 != c1` (spec/30_encoding.md R111). -/
def Item.isErr : Item → Bool
  | .err c0 c1 => c0 != c1
  | _ => false

/-- The well-formedness of `TEMPLATE` (spec/30_encoding.md R111), with R263's "dest must be BCAST_LO or BCAST_HI" for `Announce`. -/
def Cfg.templateOk (c : Cfg) : Bool :=
  let t := c.template
  ([t.stopped, t.paused, t.playing, t.fastPlayingF, t.fastPlayingR, t.seekingF, t.seekingR, t.loadingDisc, t.checkingForDisc,
    t.announce, t.pollResponse].all (Template.sizeOk c.maxPayloadTx))
  && t.checkingForDisc.items.contains .bitmap
  && t.checkingForDisc.items.any Item.isErr
  && (c.destByte t.announce.dest == c.bcastLo || c.destByte t.announce.dest == c.bcastHi)

/-- The values R8 gives ("in the original"); its three durations are read by no rule and are not tested. -/
def Cfg.givenOk (c : Cfg) : Bool :=
  c.minFrameBytes == 4 && c.maxPayload == 29 && c.maxPayloadTx == 20 && c.lenBias == 2 && c.opPoll == 0x01#8
  && c.lenPoll == 3 && c.opCdc == 0x38#8 && c.lenCdc == 5 && c.nDiscs == 6

/-- The constraints on the sizes (R9, spec/70_reset_and_hazards.md R355). -/
def Cfg.sizesOk (c : Cfg) : Bool :=
  decide (1 ≤ c.nRx) && decide (1 ≤ c.nTx) && decide (1 ≤ c.rxqCap) && decide (1 ≤ c.txqCap) && decide (1 ≤ c.cmdqCap)
  && decide (c.maxPayload + 4 ≤ c.slotBytes) && decide (c.minFrameBytes ≤ c.rxCap) && decide (c.rxCap ≤ c.slotBytes)

/-- `T_IDLE > 0`, if it has a value (R9). -/
def Cfg.timersOk (c : Cfg) : Bool :=
  match c.tIdle with
  | none => true
  | some n => decide (0 < n)

/-- The constraints on the dialect's bytes (spec/30_encoding.md R94, R108; spec/70_reset_and_hazards.md R355). -/
def Cfg.dialectOk (c : Cfg) : Bool :=
  decide c.subs.Nodup && c.radioAddr != c.selfAddr

/-- A `Cfg` that satisfies its constraints (R9, spec/30_encoding.md R94, R108, R111, spec/70_reset_and_hazards.md R355); a model
refuses any other (spec/60_exceptions.md R335, U10). -/
def Cfg.wf (c : Cfg) : Bool := c.givenOk && c.sizesOk && c.timersOk && c.dialectOk && c.templateOk

/-- The 8-byte status shape of spec/30_encoding.md R112, sent to `RADIO_ADDR`. PRESUMED (G4). -/
def statusTemplate (state : Byte) : Template :=
  ⟨.radioAddr, [.k 0x39, .k state, .audio, .err 0x00 0x08, .bitmap, .k 0x00, .disc, .track]⟩

/-- The default `TEMPLATE` of spec/30_encoding.md R112. PRESUMED (G4, G5). -/
def Templates.default : Templates where
  stopped := statusTemplate 0x00
  paused := statusTemplate 0x01
  playing := statusTemplate 0x02
  fastPlayingF := statusTemplate 0x03
  fastPlayingR := statusTemplate 0x04
  seekingF := statusTemplate 0x05
  seekingR := statusTemplate 0x06
  loadingDisc := statusTemplate 0x08
  checkingForDisc := statusTemplate 0x09
  announce := ⟨.bcastHi, [.k 0x02, .k 0x01]⟩
  pollResponse := ⟨.bcastHi, [.k 0x02, .k 0x00]⟩

/-- The default `Cfg` of R9. Sizes: DESIGN CHOICE (D9, D11, D3). Addresses, sub-commands, directions, templates, UART: PRESUMED (G1 to
G5, G7). `AUDIO_OF`: DESIGN CHOICE (the spec gives no value; 0x02 and 0x09 are those of its examples). -/
def Cfg.default : Cfg where
  nRx := 4
  nTx := 4
  rxqCap := 4
  txqCap := 4
  cmdqCap := 4
  slotBytes := 33
  rxCap := 33
  tIdle := none
  lenCheck := .strict
  trackFold := .modulo
  selfAddr := 0x18
  radioAddr := 0x68
  bcastLo := 0xBF
  bcastHi := 0xFF
  subStatus := 0x00
  subStop := 0x01
  subPause := 0x02
  subPlay := 0x03
  subFastplay := 0x04
  subSeek := 0x05
  subAltseek := 0x0A
  subChangedisc := 0x06
  subScandisc := 0x07
  subRandomize := 0x08
  dirFastplay0 := .rev
  dirSeek0 := .fwd
  dirAltseek0 := .fwd
  template := Templates.default
  announceBudget := none
  tProbe := none
  uart := ⟨9600, 8, true, 1, true⟩
  audioStopped := 0x02
  audioPlaying := 0x09
  audioPaused := 0x02

/-- FREE VALUE. What `FRAME_PARSE` answers on a run that is not a valid frame, where spec/41_rx_framer.md R162 defines nothing. -/
opaque Config.frameParseOpen : List Byte → Frame

/-- FREE VALUE. What the `n`-th open engine event (`EndOfSong`, `Error`) does (spec/45_host_changer_fsm.md R286). -/
opaque Config.engineOpen : EngineEvent → Nat → EngineOpen

end Sys2Proof
end

