-- ==== Sys2Proof/Syntax.lean ====
section
/-! DEFINITION. The instruction set of IBF: one constructor for each row of spec/opcode_table.json, the 28 operations of
spec/30_encoding.md R118, the 12 inbound messages (R105 to R108, spec/43) and the 11 outbound messages (spec/44 R254 to R264). -/

namespace Sys2Proof

/-- An instruction: an operation or a message (spec/00_scope.md R2, R6). -/
inductive Instr where
  -- the frame-pool allocator (spec/40_frame_pool.md)
  | poolAlloc (p : Pool)
  | poolTryAlloc (p : Pool)
  | poolFree (p : Pool) (h : Handle)
  -- the receive path (spec/41_rx_framer.md)
  | rxByte (b : Byte)
  | rxParityErr
  | rxIdle
  | frameEnd (t : Tag)
  | xor8 (bs : List Byte)
  | frameValidate (f : List Byte)
  | frameParse (f : List Byte)
  | rxtStep
  | cmdTake
  -- the transmit path (spec/42_tx_transmitter.md)
  | framePopulate (src dst : Byte) (payload : List Byte)
  | txSend (src dst : Byte) (payload : List Byte)
  | txtStart
  | dmaByte
  | dmaComplete
  | ctsFall
  | ctsRise
  | arbStep
  | txtWakeColl
  | txtWakeDone
  | txtGapEnd
  -- the translator (spec/43_cmd_decoder.md, spec/44_status_encoder.md)
  | cmdDecode (f : List Byte)
  | trackFold (t : Byte)
  | bcd8 (m : Fin 100)
  | statusEncode (st : TypedStatus)
  | sendStatus (st : TypedStatus)
  -- inbound messages: source and destination bytes, and the operand bytes (spec/30_encoding.md R107)
  | traffic (src dst : Byte) (payload : List Byte)
  | poll (src dst : Byte)
  | cdcStatus (src dst data : Byte)
  | cdcStop (src dst data : Byte)
  | cdcPause (src dst data : Byte)
  | cdcPlay (src dst data : Byte)
  | cdcFastplay (src dst data : Byte)
  | cdcSeek (src dst data : Byte)
  | cdcAltseek (src dst data : Byte)
  | cdcChangedisc (src dst data : Byte)
  | cdcScandisc (src dst data : Byte)
  | cdcRandomize (src dst data : Byte)
  -- outbound messages: the fields of the typed status (spec/30_encoding.md R99)
  | stStopped (c : Common)
  | stPaused (c : Common)
  | stPlaying (c : Common)
  | stFastplayingF (c : Common)
  | stFastplayingR (c : Common)
  | stSeekingF (c : Common)
  | stSeekingR (c : Common)
  | stLoadingdisc (c : Common)
  | stCheckingfordisc (c : Common) (mask : Byte) (disc : Disc) (lastFailed : Bool)
  | announce (c : Common)
  | pollResponse (c : Common)
deriving DecidableEq, Repr, Inhabited

end Sys2Proof
end

