-- ==== Sys2Proof/Machine/Frame.lean ====
section
/-! DEFINITION. The wire frame (spec/30_encoding.md R90 to R93): checksum, validation, parse and build, the pure functions of
spec/41_rx_framer.md section 2 and spec/42_tx_transmitter.md section 1. -/

namespace Sys2Proof.Machine

/-- `XOR8(s)`: the exclusive-or of a byte sequence, `XOR8([]) = 0`, `XOR8(s ++ [b]) = XOR8(s) ^ b` (spec/41_rx_framer.md R160). -/
def xor8 (s : List Byte) : Byte := s.foldl (fun acc b => acc ^^^ b) 0

/-- The byte at index `i` of a run that is known to reach that far (spec/30_encoding.md R107). -/
def byteAt (f : List Byte) (i : Nat) : Byte := f.getD i 0

/-- `payload = f[3..n-1)` (spec/30_encoding.md R107). -/
def payloadOf (f : List Byte) : List Byte := (f.take (f.length - 1)).drop 3

/-- The third conjunct of `FRAME_VALIDATE`: under `strict` the `length` byte equals `n - 2` (spec/41_rx_framer.md R161). -/
def lengthFieldOk (c : Cfg) (f : List Byte) : Bool :=
  c.lenCheck == .none || (byteAt f 1).toNat == f.length - c.lenBias

/-- `FRAME_VALIDATE(f)` (spec/41_rx_framer.md R161). -/
def frameValidate (c : Cfg) (f : List Byte) : Bool :=
  decide (c.minFrameBytes ≤ f.length) && xor8 f == 0 && lengthFieldOk c f

/-- `FRAME_PARSE(f)` on a valid run (spec/41_rx_framer.md R162). -/
def parseFrame (f : List Byte) : Frame where
  source := byteAt f 0
  length := byteAt f 1
  destination := byteAt f 2
  payload := payloadOf f
  checksum := byteAt f (f.length - 1)

/-- `FRAME_PARSE(f)` (spec/41_rx_framer.md R162: "Defined only when `FRAME_VALIDATE(f)`"; elsewhere a free value). -/
def frameParse (c : Cfg) (f : List Byte) : Frame :=
  if frameValidate c f then parseFrame f else Config.frameParseOpen f

/-- Every byte of the image but the checksum: `[s, L, d] ++ p` (spec/42_tx_transmitter.md R181). -/
def frameHead (c : Cfg) (s d : Byte) (p : List Byte) : List Byte :=
  [s, BitVec.ofNat 8 (p.length + c.lenBias), d] ++ p

/-- The image of a frame: head and checksum (spec/30_encoding.md R90 to R92). -/
def frameImage (c : Cfg) (s d : Byte) (p : List Byte) : List Byte :=
  frameHead c s d p ++ [xor8 (frameHead c s d p)]

/-- `FRAME_POPULATE(s, d, p)`; `none` is `reject` (spec/42_tx_transmitter.md R181). -/
def framePopulate (c : Cfg) (s d : Byte) (p : List Byte) : Option (List Byte) :=
  if p.length = 0 ∨ c.maxPayloadTx < p.length then none else some (frameImage c s d p)

end Sys2Proof.Machine
end

