-- ==== Sys2Proof/Machine/Operands.lean ====
section
/-! DEFINITION. The operand forms: the data byte of a changer command (spec/30_encoding.md R108, R109), the track conversion
(spec/44_status_encoder.md R250, R251), the items of a status template and `STATUS_ENCODE` (R252), and the numeric port codes
(spec/30_encoding.md R95, R98). -/

namespace Sys2Proof.Machine

/-- The other direction: `DIR_*` is a bijection of {0,1} (spec/30_encoding.md R109). -/
def otherDirection : Direction → Direction
  | .fwd => .rev
  | .rev => .fwd

/-- `DIR(data)` for a map given by its value at 0; `none` for a data byte outside {0,1} (spec/30_encoding.md R108, R109). -/
def directionOf (at0 : Direction) (data : Byte) : Option Direction :=
  if data = 0 then some at0 else if data = 1 then some (otherDirection at0) else none

/-- `onoff(data)`: `onoff(0) = Off`, `onoff(1) = On` (spec/30_encoding.md R108). -/
def onoff (data : Byte) : Option OnOff :=
  if data = 0 then some .off else if data = 1 then some .on else none

/-- The disc a data byte 1..6 names (spec/43_cmd_decoder.md R233). -/
def discOf (data : Byte) : Option Disc :=
  if data = 1 then some .d1
  else if data = 2 then some .d2
  else if data = 3 then some .d3
  else if data = 4 then some .d4
  else if data = 5 then some .d5
  else if data = 6 then some .d6
  else none

/-- A disc's byte on the wire. -/
def discByte (d : Disc) : Byte := BitVec.ofNat 8 d.toNat

/-- A data byte in {0,1} (spec/43_cmd_decoder.md R225). -/
def isBinary (data : Byte) : Bool := data == 0 || data == 1

/-- `TRACK_FOLD(t)`: 1..99 (spec/44_status_encoder.md R250). -/
def trackFold (c : Cfg) (t : Byte) : Nat :=
  match c.trackFold with
  | .modulo => if t.toNat % 100 = 0 then 1 else t.toNat % 100
  | .clamp => if 1 ≤ t.toNat ∧ t.toNat ≤ 99 then t.toNat else 1

/-- `BCD8(m) = ((m div 10) << 4) | (m mod 10)` (spec/44_status_encoder.md R251; the nibble order is PRESUMED, G6). -/
def bcd8 (m : Nat) : Byte := BitVec.ofNat 8 (((m / 10) <<< 4) ||| (m % 10))

/-- `item_value(BITMAP, s)`: the `mask` of `CheckingForDisc`, else `disc_bitmap` (spec/44_status_encoder.md R252). -/
def bitmapValue (st : TypedStatus) : Byte :=
  match st.variant with
  | .checkingForDisc mask _ _ => mask
  | _ => st.common.discBitmap

/-- `item_value(DISC, s)`: the `disc` of `CheckingForDisc`, else `current_disc` (spec/44_status_encoder.md R252). -/
def discValue (st : TypedStatus) : Byte :=
  match st.variant with
  | .checkingForDisc _ disc _ => discByte disc
  | _ => st.common.currentDisc

/-- "`s` is `CheckingForDisc` and `s.last_failed`" (spec/44_status_encoder.md R252). -/
def lastFailed (st : TypedStatus) : Bool :=
  match st.variant with
  | .checkingForDisc _ _ failed => failed
  | _ => false

/-- `item_value(it, s)` (spec/44_status_encoder.md R252). -/
def itemValue (c : Cfg) (st : TypedStatus) : Item → Byte
  | .k b => b
  | .audio => st.common.audioState
  | .bitmap => bitmapValue st
  | .disc => discValue st
  | .track => bcd8 (trackFold c st.common.currentTrack)
  | .err c0 c1 => if lastFailed st then c1 else c0

/-- `STATUS_ENCODE(s) = (dest, payload)` (spec/44_status_encoder.md R252). -/
def statusEncode (c : Cfg) (st : TypedStatus) : Byte × List Byte :=
  let t := c.template.get st.variant.case
  (c.destByte t.dest, t.items.map (itemValue c st))

/-- The image of a status: `FRAME_POPULATE(SELF_ADDR, dest, payload)` (spec/30_encoding.md R110). -/
def statusImage (c : Cfg) (st : TypedStatus) : Option (List Byte) :=
  framePopulate c c.selfAddr (statusEncode c st).1 (statusEncode c st).2

/-- The numeric code of a tag (spec/30_encoding.md R95); no rule depends on it. -/
def tagCode : Tag → Nat
  | .ok => 0
  | .parityError => 1
  | .bufferOverrun => 2

/-- The argument field of the port word: `Fwd` 0, `Rev` 1 (spec/30_encoding.md R98). -/
def directionCode : Direction → Nat
  | .fwd => 0
  | .rev => 1

/-- The argument field of the port word: `Off` 0, `On` 1 (spec/30_encoding.md R98). -/
def onOffCode : OnOff → Nat
  | .off => 0
  | .on => 1

/-- The 7-bit port word of a typed command: tag in bits 6:3, argument in bits 2:0 (spec/30_encoding.md R98). `cmdq` holds the
typed values; the word is what a hardware FIFO would carry. -/
def commandWord (c : TypedCommand) : BitVec 7 :=
  let word (tag arg : Nat) : BitVec 7 := BitVec.ofNat 7 (tag * 8 + arg)
  match c with
  | .status => word 0 0
  | .stop => word 1 0
  | .pause => word 2 0
  | .play => word 3 0
  | .fastPlay d => word 4 (directionCode d)
  | .seek d => word 5 (directionCode d)
  | .changeDisc n => word 6 n.toNat
  | .scanDisc s => word 7 (onOffCode s)
  | .randomize s => word 8 (onOffCode s)
  | .poll => word 9 0
  | .traffic => word 10 0

end Sys2Proof.Machine
end

