-- ==== Sys2Proof/WellFormed.lean ====
section
/-! DEFINITION. Which instructions are well formed: the operand conditions of the opcode table's rows and of their rules. -/

namespace Sys2Proof

/-- The row of a `CDC_*` message: `source != SELF_ADDR` and `destination` in `OURS` (spec/30_encoding.md R106, R115). Every data
byte is encodable; an illegal one gives the result none. -/
def cdcWellFormed (c : Cfg) (src dst : Byte) : Bool := src != c.selfAddr && c.ours dst

/-- The well-formed instructions. An operation takes any operand, but `FRAME_PARSE` takes a valid run (spec/41_rx_framer.md R162).
`TRAFFIC` has 0..`MAX_PAYLOAD` payload bytes (spec/30_encoding.md R91). An outbound message takes any typed status (R102). -/
def WellFormed (c : Cfg) : Instr → Bool
  | .poolAlloc _ => true
  | .poolTryAlloc _ => true
  | .poolFree _ _ => true
  | .rxByte _ => true
  | .rxParityErr => true
  | .rxIdle => true
  | .frameEnd _ => true
  | .xor8 _ => true
  | .frameValidate _ => true
  | .frameParse f => Machine.frameValidate c f
  | .rxtStep => true
  | .cmdTake => true
  | .framePopulate _ _ _ => true
  | .txSend _ _ _ => true
  | .txtStart => true
  | .dmaByte => true
  | .dmaComplete => true
  | .ctsFall => true
  | .ctsRise => true
  | .arbStep => true
  | .txtWakeColl => true
  | .txtWakeDone => true
  | .txtGapEnd => true
  | .cmdDecode _ => true
  | .trackFold _ => true
  | .bcd8 _ => true
  | .statusEncode _ => true
  | .sendStatus _ => true
  | .traffic src dst p => src != c.selfAddr && !c.ours dst && decide (p.length ≤ c.maxPayload)
  | .poll src dst => cdcWellFormed c src dst
  | .cdcStatus src dst _ => cdcWellFormed c src dst
  | .cdcStop src dst _ => cdcWellFormed c src dst
  | .cdcPause src dst _ => cdcWellFormed c src dst
  | .cdcPlay src dst _ => cdcWellFormed c src dst
  | .cdcFastplay src dst _ => cdcWellFormed c src dst
  | .cdcSeek src dst _ => cdcWellFormed c src dst
  | .cdcAltseek src dst _ => cdcWellFormed c src dst
  | .cdcChangedisc src dst _ => cdcWellFormed c src dst
  | .cdcScandisc src dst _ => cdcWellFormed c src dst
  | .cdcRandomize src dst _ => cdcWellFormed c src dst
  | .stStopped _ => true
  | .stPaused _ => true
  | .stPlaying _ => true
  | .stFastplayingF _ => true
  | .stFastplayingR _ => true
  | .stSeekingF _ => true
  | .stSeekingR _ => true
  | .stLoadingdisc _ => true
  | .stCheckingfordisc _ _ _ _ => true
  | .announce _ => true
  | .pollResponse _ => true

end Sys2Proof
end

