-- ==== Sys2Proof/Decode.lean ====
section
/-! DEFINITION. The decoder of inbound messages (the fetch side of spec/43_cmd_decoder.md R220, by the order of R114, every rejection
by its cause of spec/60_exceptions.md R311), the reading of an outbound payload by its templates (spec/30_encoding.md R111), the
encoder, and the host's numbering of table words. Operations have no bit encoding (spec/30_encoding.md R118). -/

namespace Sys2Proof

/-- The message a sub-command byte selects (spec/30_encoding.md R108, spec/43_cmd_decoder.md R225); the ten bytes are pairwise
distinct, so at most one test succeeds. -/
def decodeCdc (c : Cfg) (src dst sub data : Byte) : Except Cause Instr :=
  if sub = c.subStatus then .ok (.cdcStatus src dst data)
  else if sub = c.subStop then .ok (.cdcStop src dst data)
  else if sub = c.subPause then .ok (.cdcPause src dst data)
  else if sub = c.subPlay then .ok (.cdcPlay src dst data)
  else if sub = c.subFastplay then .ok (.cdcFastplay src dst data)
  else if sub = c.subSeek then .ok (.cdcSeek src dst data)
  else if sub = c.subAltseek then .ok (.cdcAltseek src dst data)
  else if sub = c.subChangedisc then .ok (.cdcChangedisc src dst data)
  else if sub = c.subScandisc then .ok (.cdcScandisc src dst data)
  else if sub = c.subRandomize then .ok (.cdcRandomize src dst data)
  else .error .unrecognised

/-- The message a valid run holds, by the tests of spec/43_cmd_decoder.md R220 from the echo test on (R222 to R225, R236). -/
def decodeValid (c : Cfg) (f : List Byte) : Except Cause Instr :=
  let src := Machine.byteAt f 0
  let len := (Machine.byteAt f 1).toNat
  let dst := Machine.byteAt f 2
  let p := Machine.payloadOf f
  if src = c.selfAddr then .error .selfEcho
  else if c.ours dst = false then .ok (.traffic src dst p)
  else if len = c.lenPoll ∧ 1 ≤ p.length ∧ Machine.byteAt p 0 = c.opPoll then .ok (.poll src dst)
  else if len = c.lenCdc ∧ 3 ≤ p.length ∧ Machine.byteAt p 0 = c.opCdc then
    decodeCdc c src dst (Machine.byteAt p 1) (Machine.byteAt p 2)
  else .error .unrecognised

/-- Why a run is no valid frame, if it is none (spec/41_rx_framer.md R161, spec/60_exceptions.md R311). -/
def invalidCause (c : Cfg) (f : List Byte) : Option Cause :=
  if f.length < c.minFrameBytes then some .shortRun
  else if Machine.xor8 f ≠ 0 then some .badChecksum
  else if Machine.lengthFieldOk c f = false then some .lengthMismatch
  else none

/-- Decode a run of bytes: an inbound message, or the cause of its rejection. Total on any bytes (R220). -/
def decode (c : Cfg) (f : List Byte) : Except Cause Instr :=
  match invalidCause c f with
  | some r => .error r
  | none => decodeValid c f

/-- What the items of a template bind when they are read against a payload. -/
structure Bound where
  audio : Option Byte := none
  bitmap : Option Byte := none
  disc : Option Byte := none
  track : Option Byte := none
  failed : Option Bool := none
deriving DecidableEq, Repr

/-- Bind a value; a second occurrence must agree with the first. -/
def bindField {α : Type} [DecidableEq α] (old : Option α) (v : α) : Option (Option α) :=
  match old with
  | none => some (some v)
  | some w => if w = v then some (some w) else none

/-- The track number a track byte reads as: tens digit times ten plus units digit, exact for the packed BCD bytes 0x01..0x99 that
the encoder writes (spec/44_status_encoder.md R251). A byte it never writes reads by the same sum (DESIGN CHOICE, log 16). -/
def unBcd (v : Byte) : Byte := BitVec.ofNat 8 (v.toNat / 16 * 10 + v.toNat % 16)

/-- Read one payload byte against one template item (spec/30_encoding.md R111). -/
def bindItem (b : Bound) (it : Item) (v : Byte) : Option Bound :=
  match it with
  | .k c => if v = c then some b else none
  | .audio => (bindField b.audio v).map fun o => { b with audio := o }
  | .bitmap => (bindField b.bitmap v).map fun o => { b with bitmap := o }
  | .disc => (bindField b.disc v).map fun o => { b with disc := o }
  | .track => (bindField b.track (unBcd v)).map fun o => { b with track := o }
  | .err c0 c1 =>
    if v = c0 then (bindField b.failed false).map fun o => { b with failed := o }
    else if v = c1 then (bindField b.failed true).map fun o => { b with failed := o }
    else none

/-- Read a payload against a template's items, of the same number. -/
def bindItems (b : Bound) : List Item → List Byte → Option Bound
  | [], [] => some b
  | it :: its, v :: vs => (bindItem b it v).bind fun b' => bindItems b' its vs
  | [], _ :: _ => none
  | _ :: _, [] => none

/-- The common fields a payload binds; a field the template does not use reads as 0. -/
def Bound.common (b : Bound) : Common :=
  ⟨b.audio.getD 0, b.bitmap.getD 0, b.disc.getD 0, b.track.getD 0⟩

/-- The outbound message of a case from what its payload binds. For `CheckingForDisc`, `BITMAP` is the mask and `DISC` the disc
(spec/30_encoding.md R111), and a disc byte outside 1..6, which no status writes, reads as disc 1 (DESIGN CHOICE, log 16); for
every other case the `ERR` byte is `c0`. -/
def messageOfBound (k : StatusCase) (b : Bound) : Option Instr :=
  let plain (i : Instr) : Option Instr := if b.failed = some true then none else some i
  match k with
  | .stopped => plain (.stStopped b.common)
  | .paused => plain (.stPaused b.common)
  | .playing => plain (.stPlaying b.common)
  | .fastPlayingF => plain (.stFastplayingF b.common)
  | .fastPlayingR => plain (.stFastplayingR b.common)
  | .seekingF => plain (.stSeekingF b.common)
  | .seekingR => plain (.stSeekingR b.common)
  | .loadingDisc => plain (.stLoadingdisc b.common)
  | .checkingForDisc =>
    some (.stCheckingfordisc ⟨b.audio.getD 0, 0, 0, b.track.getD 0⟩ (b.bitmap.getD 0) ((Machine.discOf (b.disc.getD 0)).getD .d1)
      (b.failed.getD false))
  | .announce => plain (.announce b.common)
  | .pollResponse => plain (.pollResponse b.common)

/-- The eleven cases in the order of spec/30_encoding.md R111. -/
def statusCases : List StatusCase :=
  [.stopped, .paused, .playing, .fastPlayingF, .fastPlayingR, .seekingF, .seekingR, .loadingDisc, .checkingForDisc, .announce,
    .pollResponse]

/-- Read a payload as one case's message. -/
def readCase (c : Cfg) (payload : List Byte) (k : StatusCase) : Option Instr :=
  (bindItems {} (c.template.get k).items payload).bind (messageOfBound k)

/-- Read an outbound payload: the first case whose template it fits. The block's own decoder never does this
(spec/44_status_encoder.md R266); it is how a reader of the wire names an outbound row's word. -/
def decodeStatus (c : Cfg) (payload : List Byte) : Option Instr :=
  statusCases.findSome? (readCase c payload)

/-- The typed status an outbound message stands for (spec/44_status_encoder.md R254 to R264); `none` for other instructions. -/
def statusOf : Instr → Option TypedStatus
  | .stStopped cm => some ⟨.stopped, cm⟩
  | .stPaused cm => some ⟨.paused, cm⟩
  | .stPlaying cm => some ⟨.playing, cm⟩
  | .stFastplayingF cm => some ⟨.fastPlaying .fwd, cm⟩
  | .stFastplayingR cm => some ⟨.fastPlaying .rev, cm⟩
  | .stSeekingF cm => some ⟨.seeking .fwd, cm⟩
  | .stSeekingR cm => some ⟨.seeking .rev, cm⟩
  | .stLoadingdisc cm => some ⟨.loadingDisc, cm⟩
  | .stCheckingfordisc cm mask disc failed => some ⟨.checkingForDisc mask disc failed, cm⟩
  | .announce cm => some ⟨.announce, cm⟩
  | .pollResponse cm => some ⟨.pollResponse, cm⟩
  | .poolAlloc _ | .poolTryAlloc _ | .poolFree _ _ | .rxByte _ | .rxParityErr | .rxIdle | .frameEnd _ | .xor8 _
  | .frameValidate _ | .frameParse _ | .rxtStep | .cmdTake | .framePopulate _ _ _ | .txSend _ _ _ | .txtStart | .dmaByte
  | .dmaComplete | .ctsFall | .ctsRise | .arbStep | .txtWakeColl | .txtWakeDone | .txtGapEnd | .cmdDecode _ | .trackFold _
  | .bcd8 _ | .statusEncode _ | .sendStatus _ | .traffic _ _ _ | .poll _ _ | .cdcStatus _ _ _ | .cdcStop _ _ _
  | .cdcPause _ _ _ | .cdcPlay _ _ _ | .cdcFastplay _ _ _ | .cdcSeek _ _ _ | .cdcAltseek _ _ _ | .cdcChangedisc _ _ _
  | .cdcScandisc _ _ _ | .cdcRandomize _ _ _ => none

/-- The image of a changer command: format `F_CDC` (spec/30_encoding.md R106). -/
def encodeCdc (c : Cfg) (src dst sub data : Byte) : List Byte := Machine.frameImage c src dst [c.opCdc, sub, data]

/-- The encoder: a message's image in wire order (spec/30_encoding.md R105, R106, R110, R223). An operation has none (R118). -/
def encode (c : Cfg) : Instr → Option (List Byte)
  | .traffic src dst p => some (Machine.frameImage c src dst p)
  | .poll src dst => some (Machine.frameImage c src dst [c.opPoll])
  | .cdcStatus src dst data => some (encodeCdc c src dst c.subStatus data)
  | .cdcStop src dst data => some (encodeCdc c src dst c.subStop data)
  | .cdcPause src dst data => some (encodeCdc c src dst c.subPause data)
  | .cdcPlay src dst data => some (encodeCdc c src dst c.subPlay data)
  | .cdcFastplay src dst data => some (encodeCdc c src dst c.subFastplay data)
  | .cdcSeek src dst data => some (encodeCdc c src dst c.subSeek data)
  | .cdcAltseek src dst data => some (encodeCdc c src dst c.subAltseek data)
  | .cdcChangedisc src dst data => some (encodeCdc c src dst c.subChangedisc data)
  | .cdcScandisc src dst data => some (encodeCdc c src dst c.subScandisc data)
  | .cdcRandomize src dst data => some (encodeCdc c src dst c.subRandomize data)
  | .stStopped cm => Machine.statusImage c ⟨.stopped, cm⟩
  | .stPaused cm => Machine.statusImage c ⟨.paused, cm⟩
  | .stPlaying cm => Machine.statusImage c ⟨.playing, cm⟩
  | .stFastplayingF cm => Machine.statusImage c ⟨.fastPlaying .fwd, cm⟩
  | .stFastplayingR cm => Machine.statusImage c ⟨.fastPlaying .rev, cm⟩
  | .stSeekingF cm => Machine.statusImage c ⟨.seeking .fwd, cm⟩
  | .stSeekingR cm => Machine.statusImage c ⟨.seeking .rev, cm⟩
  | .stLoadingdisc cm => Machine.statusImage c ⟨.loadingDisc, cm⟩
  | .stCheckingfordisc cm mask disc failed => Machine.statusImage c ⟨.checkingForDisc mask disc failed, cm⟩
  | .announce cm => Machine.statusImage c ⟨.announce, cm⟩
  | .pollResponse cm => Machine.statusImage c ⟨.pollResponse, cm⟩
  | .poolAlloc _ | .poolTryAlloc _ | .poolFree _ _ | .rxByte _ | .rxParityErr | .rxIdle | .frameEnd _ | .xor8 _
  | .frameValidate _ | .frameParse _ | .rxtStep | .cmdTake | .framePopulate _ _ _ | .txSend _ _ _ | .txtStart | .dmaByte
  | .dmaComplete | .ctsFall | .ctsRise | .arbStep | .txtWakeColl | .txtWakeDone | .txtGapEnd | .cmdDecode _ | .trackFold _
  | .bcd8 _ | .statusEncode _ | .sendStatus _ => none

/-- The instruction is an inbound message (spec/30_encoding.md section 3): the RX task executes it from the head of `rxq`. -/
def isInbound : Instr → Bool
  | .traffic _ _ _ | .poll _ _ | .cdcStatus _ _ _ | .cdcStop _ _ _ | .cdcPause _ _ _ | .cdcPlay _ _ _ | .cdcFastplay _ _ _
  | .cdcSeek _ _ _ | .cdcAltseek _ _ _ | .cdcChangedisc _ _ _ | .cdcScandisc _ _ _ | .cdcRandomize _ _ _ => true
  | .poolAlloc _ | .poolTryAlloc _ | .poolFree _ _ | .rxByte _ | .rxParityErr | .rxIdle | .frameEnd _ | .xor8 _
  | .frameValidate _ | .frameParse _ | .rxtStep | .cmdTake | .framePopulate _ _ _ | .txSend _ _ _ | .txtStart | .dmaByte
  | .dmaComplete | .ctsFall | .ctsRise | .arbStep | .txtWakeColl | .txtWakeDone | .txtGapEnd | .cmdDecode _ | .trackFold _
  | .bcd8 _ | .statusEncode _ | .sendStatus _ | .stStopped _ | .stPaused _ | .stPlaying _ | .stFastplayingF _
  | .stFastplayingR _ | .stSeekingF _ | .stSeekingR _ | .stLoadingdisc _ | .stCheckingfordisc _ _ _ _ | .announce _
  | .pollResponse _ => false

/-- The instruction is a sub-step of another operation and "not an event of its own": `FRAME_END`, the common tail of `RX_IDLE` and
`RX_PARITY_ERR` (spec/41_rx_framer.md R156), and `POOL_TRY_ALLOC`, which only `FRAME_END` uses (spec/40_frame_pool.md R132). -/
def isSubStep : Instr → Bool
  | .frameEnd _ | .poolTryAlloc _ => true
  | .poolAlloc _ | .poolFree _ _ | .rxByte _ | .rxParityErr | .rxIdle | .xor8 _ | .frameValidate _ | .frameParse _ | .rxtStep
  | .cmdTake | .framePopulate _ _ _ | .txSend _ _ _ | .txtStart | .dmaByte | .dmaComplete | .ctsFall | .ctsRise | .arbStep
  | .txtWakeColl | .txtWakeDone | .txtGapEnd | .cmdDecode _ | .trackFold _ | .bcd8 _ | .statusEncode _ | .sendStatus _
  | .traffic _ _ _ | .poll _ _ | .cdcStatus _ _ _ | .cdcStop _ _ _ | .cdcPause _ _ _ | .cdcPlay _ _ _ | .cdcFastplay _ _ _
  | .cdcSeek _ _ _ | .cdcAltseek _ _ _ | .cdcChangedisc _ _ _ | .cdcScandisc _ _ _ | .cdcRandomize _ _ _ | .stStopped _
  | .stPaused _ | .stPlaying _ | .stFastplayingF _ | .stFastplayingR _ | .stSeekingF _ | .stSeekingR _ | .stLoadingdisc _
  | .stCheckingfordisc _ _ _ _ | .announce _ | .pollResponse _ => false

/-- What an outbound message's default-template payload still tells of its operands: the track folded into 1..99, and 0 for the
common fields that payload does not carry. Other instructions are their own wire form. -/
def wireForm (c : Cfg) (i : Instr) : Instr :=
  let fold (cm : Common) : Common := { cm with currentTrack := BitVec.ofNat 8 (Machine.trackFold c cm.currentTrack) }
  match i with
  | .stStopped cm => .stStopped (fold cm)
  | .stPaused cm => .stPaused (fold cm)
  | .stPlaying cm => .stPlaying (fold cm)
  | .stFastplayingF cm => .stFastplayingF (fold cm)
  | .stFastplayingR cm => .stFastplayingR (fold cm)
  | .stSeekingF cm => .stSeekingF (fold cm)
  | .stSeekingR cm => .stSeekingR (fold cm)
  | .stLoadingdisc cm => .stLoadingdisc (fold cm)
  | .stCheckingfordisc cm mask disc failed =>
    .stCheckingfordisc { fold cm with discBitmap := 0, currentDisc := 0 } mask disc failed
  | .announce _ => .announce ⟨0, 0, 0, 0⟩
  | .pollResponse _ => .pollResponse ⟨0, 0, 0, 0⟩
  | i => i

/-- The bytes of a table word of `nbits` bits, most significant first: `payload[0]` is in the most significant byte
(spec/30_encoding.md R119). -/
def wordBytes (nbits w : Nat) : List Byte :=
  (List.range (nbits / 8)).map fun k => BitVec.ofNat 8 (w >>> (8 * (nbits / 8 - 1 - k)))

/-- The frame that carries an inbound row's payload: from the radio to us; for the row of no payload bits, `TRAFFIC`, from the radio
to an address that is not ours (spec/30_encoding.md R119: source, destination and checksum are not part of a row's match). -/
def tableFrame (c : Cfg) (payload : List Byte) : List Byte :=
  Machine.frameImage c c.radioAddr (if payload = [] then c.radioAddr else c.selfAddr) payload

/-- The instruction a row's payload stands for: an inbound message by the decoder, else an outbound one by its template. -/
def decodePayload (c : Cfg) (payload : List Byte) : Option Instr :=
  match decode c (tableFrame c payload) with
  | .ok i => some i
  | .error _ => decodeStatus c payload

/-- The instruction the decoder reads from a word of spec/opcode_table.json under the default `Cfg`. -/
def decodeTableWord (nbits w : Nat) : Option Instr := decodePayload Cfg.default (wordBytes nbits w)

end Sys2Proof
end

