-- ==== Sys2Proof/Machine/State.lean ====
section
/-! DEFINITION. The machine's state as plain data (spec/10_state.md; spec/45_host_changer_fsm.md R280 for the host agent), the reasons
a step can stop, and the state after reset (R50). -/

namespace Sys2Proof.Machine

/-- Storage: the bytes written so far, by address, addresses strictly rising (spec/20_memory.md R60). An unlisted address has no
value: reading it is a fault of the model (spec/10_state.md R50). -/
abbrev Memory := List Host.Cell

/-- The per-slot bits and counts of one pool (spec/10_state.md R21, R22). -/
structure Slots where
  inUse : List Bool
  len : List Nat
deriving DecidableEq, Repr, Inhabited

/-- What an operation returned (spec/30_encoding.md R118). The model's own register. -/
inductive Ret where
  /-- no operation has returned anything yet -/
  | nothing
  /-- the operation was enabled and returns no value -/
  | done
  /-- the operation was not enabled and had none of its effect (spec/60_exceptions.md R335) -/
  | held
  /-- `POOL_ALLOC` -/
  | handle (h : Handle)
  /-- `POOL_TRY_ALLOC` -/
  | tryHandle (h : Option Handle)
  /-- `XOR8`, `BCD8` -/
  | byte (b : Byte)
  /-- `FRAME_VALIDATE` -/
  | bool (b : Bool)
  /-- `FRAME_PARSE` -/
  | frame (f : Frame)
  /-- `CMD_TAKE` -/
  | command (c : TypedCommand)
  /-- `CMD_DECODE` -/
  | decoded (c : Option TypedCommand)
  /-- `FRAME_POPULATE`; `none` is `reject` -/
  | image (f : Option (List Byte))
  /-- `TX_SEND`, `SEND_STATUS` -/
  | queued
  /-- `TX_SEND` -/
  | rejected
  /-- `TRACK_FOLD` -/
  | number (n : Nat)
  /-- `STATUS_ENCODE` -/
  | encoded (dest : Byte) (payload : List Byte)
deriving DecidableEq, Repr, Inhabited

/-- What a schedule entry asks for: an operation or message by its agent, or a step of the host agent. -/
inductive Action where
  | op (i : Instr)
  | host (h : HostStep)
deriving DecidableEq, Repr, Inhabited

/-- One entry of the schedule: what is attempted next, and which free slot an allocation in it takes (spec/40_frame_pool.md R131:
"choose any such `i`"). -/
structure Entry where
  pick : Nat
  act : Action
deriving DecidableEq, Repr, Inhabited

/-- Why the machine stops with a fault. -/
inductive Fault where
  /-- A read of storage that nothing has written (spec/10_state.md R50, spec/60_exceptions.md R335). Raised by the operations that
  read a slot or `rx_buf`. SAFE: no rule of the spec performs one. -/
  | unspecifiedRead
  /-- An access outside a slot, or to a slot that does not exist (spec/20_memory.md R62). Raised by the operations that read or write
  a slot. SAFE: no rule of the spec forms one. -/
  | outOfRange
deriving DecidableEq, Repr, Inhabited

/-- Why the machine refuses to step. -/
inductive Refusal where
  /-- An instruction with no meaning yet, by its mnemonic. Raised by the dispatcher only. SAFE. -/
  | notModelled (mnemonic : String)
  /-- A `Cfg` outside its constraints (spec/60_exceptions.md R335, U10). Raised by `step`. SAFE: the spec asks for it. -/
  | badConfig
deriving DecidableEq, Repr, Inhabited

/-- The state of IBF. -/
structure State where
  /-- the configuration, fixed before reset and never written (spec/10_state.md R43) -/
  cfg : Cfg
  /-- `PRX.in_use`, `PRX.len` (R21, R22) -/
  prx : Slots
  /-- `PRX.tag` (R23) -/
  prxTag : List Tag
  /-- `PTX.in_use`, `PTX.len` (R21, R22) -/
  ptx : Slots
  /-- `PRX.buf`, `PTX.buf`, `rx_buf` (R22, R27) -/
  mem : Memory
  /-- `rx_cnt` (R28) -/
  rxCnt : Nat
  /-- `rx_tag` (R29) -/
  rxTag : Tag
  /-- `rxq`: indices of PRX handles, oldest first (R30) -/
  rxq : List Nat
  /-- `txq`: indices of PTX handles, oldest first (R31) -/
  txq : List Nat
  /-- `cmdq`, oldest first (R32) -/
  cmdq : List TypedCommand
  /-- `txs` (R33) -/
  txs : Txs
  /-- `tx_cur`: index of a PTX handle (R34) -/
  txCur : Nat
  /-- `dma_active` (R35) -/
  dmaActive : Bool
  /-- `dma_idx` (R35) -/
  dmaIdx : Nat
  /-- `tx_wake` (R36) -/
  txWake : Wake
  /-- `cts` (R37) -/
  cts : Bool
  /-- `cts_fall_pend` (R38) -/
  ctsFallPend : Bool
  /-- history `line_out` (R45) -/
  lineOut : List LineEvent
  /-- history `rx_in` (R45) -/
  rxIn : List EnvEvent
  /-- history `cmd_out` (R45) -/
  cmdOut : List TypedCommand
  /-- ghost: handles handed to a caller of an allocation and not yet freed (R26) -/
  held : List Handle
  /-- the host's `ChangerState` (spec/45_host_changer_fsm.md R280) -/
  cs : ChangerState
  /-- the host has taken its first step (R283) -/
  booted : Bool
  /-- the host's count of announcements (R283) -/
  announces : Nat
  /-- what is left of the host step in progress (R292, R294); the model's own -/
  hostPend : List HostAction
  /-- commands forwarded to the playback engine (R285); the model's own history -/
  engineOut : List EngineCmd
  /-- the schedule: what is attempted next (spec/60_exceptions.md R320, R322); the model's own -/
  sched : List Entry
  /-- which free slot an allocation takes (spec/40_frame_pool.md R131): a free value, the model's own -/
  pick : Nat
  /-- what the last operation returned; the model's own -/
  ret : Ret
  /-- how many open engine events have occurred (R286): the argument of a free value, the model's own -/
  freeCtr : Nat
deriving DecidableEq, Repr

/-- A pool right after reset: every slot free (R21, D17); the lengths are unspecified (DESIGN CHOICE 0, log 7). -/
def Slots.reset (n : Nat) : Slots := ⟨List.replicate n false, List.replicate n 0⟩

/-- The host's initial `ChangerState` (spec/45_host_changer_fsm.md R281). -/
def hostReset (c : Cfg) : ChangerState where
  lifecycle := .notConnected
  disc := .noMagazine
  play := .stopped
  discBitmap := 0
  currentDisc := 0
  currentTrack := 0
  audioState := c.audioStopped

/-- The state right after reset for a configuration and a level of the CTS pin, the free input `cts0` (spec/10_state.md R37, R50). -/
def State.resetWith (c : Cfg) (cts0 : Bool) : State where
  cfg := c
  prx := Slots.reset c.nRx
  prxTag := List.replicate c.nRx .ok
  ptx := Slots.reset c.nTx
  mem := []
  rxCnt := 0
  rxTag := .ok
  rxq := []
  txq := []
  cmdq := []
  txs := .idle
  txCur := 0
  dmaActive := false
  dmaIdx := 0
  txWake := .none
  cts := cts0
  ctsFallPend := false
  lineOut := []
  rxIn := []
  cmdOut := []
  held := []
  cs := hostReset c
  booted := false
  announces := 0
  hostPend := []
  engineOut := []
  sched := []
  pick := 0
  ret := .nothing
  freeCtr := 0

/-- The machine right after reset, with the default configuration and CTS asserted (DESIGN CHOICE, log 8). -/
def State.reset : State := State.resetWith Cfg.default true

end Sys2Proof.Machine
end

