-- ==== Sys2Proof/Machine/Ops.lean ====
section
/-! DEFINITION. The shared operations over storage, pools and queues, and the two ways an operation ends without its effect. IBF takes
no exception and returns from none: an interrupt-context operation saves nothing, changes exactly what its rule says and goes
nowhere (spec/60_exceptions.md R325, R326), so there is no saved pc, status or mode; what takes the place of an exception is a
drop, a reject, a hold or a retry (R310), each a next state. -/

namespace Sys2Proof.Machine

/-- The three outcomes of an operation. -/
abbrev Out := Host.Outcome State Fault Refusal

/-- Continue with a value, or stop with the fault. -/
def orFault {α : Type} (x : Except Fault α) (k : α → Out) : Out :=
  match x with
  | .ok a => k a
  | .error e => .fault e

/-- The operation ends with its effect in `s`, returning `r`. -/
def finish (r : Ret) (s : State) : Out := .next { s with ret := r }

/-- `hold`: the operation is not enabled; nothing of its effect happens (spec/00_scope.md R13, spec/60_exceptions.md R335). The agent
tries again when the schedule lists it again. -/
def hold (s : State) : Out := finish .held s

/-! ### Storage -/

/-- Read one byte; `none` where nothing has been written. -/
def Memory.read : Memory → Nat → Option Byte
  | [], _ => none
  | c :: m, a => if c.1 = a then some c.2 else Memory.read m a

/-- Write one byte, keeping the addresses rising. -/
def Memory.write : Memory → Nat → Byte → Memory
  | [], a, v => [(a, v)]
  | c :: m, a, v =>
    if a < c.1 then (a, v) :: c :: m
    else if a = c.1 then (a, v) :: m
    else c :: Memory.write m a v

/-- The canonical form: addresses strictly rising. An unlisted address has no value, so no entry can equal it. -/
def Memory.wf : Memory → Bool
  | [] => true
  | [_] => true
  | c :: d :: m => decide (c.1 < d.1) && Memory.wf (d :: m)

/-- Read `n` bytes in ascending order (spec/20_memory.md R63); `none` if one of them has no value. -/
def Memory.readN (m : Memory) (a : Nat) : Nat → Option (List Byte)
  | 0 => some []
  | n + 1 =>
    match Memory.read m a, Memory.readN m (a + 1) n with
    | some b, some bs => some (b :: bs)
    | _, _ => none

/-- Write a sequence of bytes in ascending order. -/
def Memory.writeN (m : Memory) (a : Nat) : List Byte → Memory
  | [] => m
  | b :: bs => Memory.writeN (Memory.write m a b) (a + 1) bs

/-- Where slot `i` of a pool begins. The spec gives no address map (spec/20_memory.md R69): the numbering is the model's. -/
def slotBase (c : Cfg) : Pool → Nat → Nat
  | .prx, i => i * c.slotBytes
  | .ptx, i => (c.nRx + i) * c.slotBytes

/-- Where `rx_buf` begins in the model's numbering. -/
def rxBufBase (c : Cfg) : Nat := (c.nRx + c.nTx) * c.slotBytes

/-- How many bytes of storage exist: the slots of both pools and `rx_buf` (spec/20_memory.md R60). -/
def memSize (c : Cfg) : Nat := rxBufBase c + c.rxCap

/-- `MemRead((P, i, off), n)` (spec/00_scope.md R13): only bytes inside a slot are addressable (spec/20_memory.md R62). -/
def slotRead (s : State) (p : Pool) (i off n : Nat) : Except Fault (List Byte) :=
  if i < s.cfg.slotCount p ∧ off + n ≤ s.cfg.slotBytes then
    match Memory.readN s.mem (slotBase s.cfg p i + off) n with
    | some bs => .ok bs
    | none => .error .unspecifiedRead
  else .error .outOfRange

/-- `MemWrite((P, i, 0), len(bs), bs)` (spec/00_scope.md R13, spec/20_memory.md R62). -/
def slotWrite (s : State) (p : Pool) (i : Nat) (bs : List Byte) : Except Fault State :=
  if i < s.cfg.slotCount p ∧ bs.length ≤ s.cfg.slotBytes then
    .ok { s with mem := Memory.writeN s.mem (slotBase s.cfg p i) bs }
  else .error .outOfRange

/-! ### Pools (spec/40_frame_pool.md) -/

/-- A pool's bits and counts. -/
def State.slots (s : State) : Pool → Slots
  | .prx => s.prx
  | .ptx => s.ptx

/-- Replace a pool's bits and counts. -/
def State.setSlots (s : State) (p : Pool) (v : Slots) : State :=
  { s with
    prx := (match p with | .prx => v | .ptx => s.prx)
    ptx := (match p with | .prx => s.ptx | .ptx => v) }

/-- `P.in_use[i] <- b`. -/
def State.setInUse (s : State) (p : Pool) (i : Nat) (b : Bool) : State :=
  s.setSlots p { s.slots p with inUse := (s.slots p).inUse.set i b }

/-- `P.len[i] <- n`. -/
def State.setLen (s : State) (p : Pool) (i n : Nat) : State :=
  s.setSlots p { s.slots p with len := (s.slots p).len.set i n }

/-- `PRX.tag[i] <- t`. -/
def State.setTag (s : State) (i : Nat) (t : Tag) : State := { s with prxTag := s.prxTag.set i t }

/-- The free indices of a pool of `n` slots, in order: `0 <= i < n` with `in_use[i] = false`. -/
def freeIndices (inUse : List Bool) (n : Nat) : List Nat :=
  (List.range n).filter fun i => inUse[i]? == some false

/-- One free index, the one the free value `pick` chooses (spec/40_frame_pool.md R131, D29); `none` on exhaustion. -/
def chooseFree (inUse : List Bool) (n pick : Nat) : Option Nat :=
  (freeIndices inUse n)[pick % (freeIndices inUse n).length]?

/-- Scan and claim, the part common to `POOL_ALLOC` and `POOL_TRY_ALLOC` (spec/40_frame_pool.md R131, R132): the index claimed and the
state after, or `none` when no slot is free. -/
def claim (s : State) (p : Pool) : Option (Nat × State) :=
  match chooseFree (s.slots p).inUse (s.cfg.slotCount p) s.pick with
  | some i => some (i, s.setInUse p i true)
  | none => none

/-- The value is a handle of this pool (spec/10_state.md R25). -/
def recognised (s : State) (p : Pool) (h : Handle) : Bool :=
  decide (h.pool = p) && decide (h.idx < s.cfg.slotCount p)

/-- `POOL_FREE(P, h)`'s effect (spec/40_frame_pool.md R133): an unrecognised handle changes nothing. -/
def release (s : State) (p : Pool) (h : Handle) : State :=
  if recognised s p h then s.setInUse p h.idx false else s

end Sys2Proof.Machine
end

