-- ==== Sys2Proof/Machine/Flags.lean ====
section
/-! DEFINITION. The status elements of IBF. It has no arithmetic condition codes; its few-valued status elements are `in_use`, `rx_tag`,
`tag`, `cts`, `cts_fall_pend`, `dma_active` and `tx_wake` (spec/10_state.md R42). Here stand the rules that compute one of them. -/

namespace Sys2Proof.Machine

/-- The assembler is not "between frames": `rx_cnt > 0 or rx_tag != Ok` (spec/41_rx_framer.md R154, spec/10_state.md R33). -/
def assemblerBusy (s : State) : Bool := decide (0 < s.rxCnt) || decide (s.rxTag ≠ .ok)

/-- `if tx_wake = NONE then tx_wake <- DONE`: the first reason posted wins (spec/42_tx_transmitter.md R187, D15). -/
def postDone (w : Wake) : Wake := if w = .none then .done else w

/-- `if dma_active then cts_fall_pend <- true`: only a fall during a transfer is remembered; a second fall leaves the bit set
(spec/42_tx_transmitter.md R188, spec/60_exceptions.md R316). -/
def postFall (dmaActive pending : Bool) : Bool := if dmaActive then true else pending

/-- The guard of `TXT_START` (spec/42_tx_transmitter.md R185), but for the queue's head. -/
def mayStart (s : State) : Bool := decide (s.txs = .idle) && s.cts && !s.ctsFallPend

/-- A bounded queue has room for one more element (spec/00_scope.md R11). -/
def hasRoom {α : Type} (q : List α) (cap : Nat) : Bool := decide (q.length < cap)

end Sys2Proof.Machine
end

