-- ==== Sys2Proof/Machine/Messages.lean ====
section
/-! DEFINITION. What an inbound message decodes to (spec/43_cmd_decoder.md R223 to R235), `CMD_DECODE` (R220), and the meanings of the
inbound messages: the RX task's step on the frame at the head of `rxq` (spec/41_rx_framer.md R165). -/

namespace Sys2Proof.Machine

/-- `TRAFFIC` (R223). -/
def resultTraffic : Option TypedCommand := some .traffic

/-- `POLL` (R224). -/
def resultPoll : Option TypedCommand := some .poll

/-- `CDC_STATUS` (R226). -/
def resultStatus (data : Byte) : Option TypedCommand := if isBinary data then some .status else none

/-- `CDC_STOP` (R227). -/
def resultStop (data : Byte) : Option TypedCommand := if isBinary data then some .stop else none

/-- `CDC_PAUSE` (R228). -/
def resultPause (data : Byte) : Option TypedCommand := if isBinary data then some .pause else none

/-- `CDC_PLAY` (R229). -/
def resultPlay (data : Byte) : Option TypedCommand := if isBinary data then some .play else none

/-- `CDC_FASTPLAY` (R230). -/
def resultFastplay (c : Cfg) (data : Byte) : Option TypedCommand := (directionOf c.dirFastplay0 data).map .fastPlay

/-- `CDC_SEEK` (R231). -/
def resultSeek (c : Cfg) (data : Byte) : Option TypedCommand := (directionOf c.dirSeek0 data).map .seek

/-- `CDC_ALTSEEK`: the same typed command as `CDC_SEEK`, by a direction map of its own (R232). -/
def resultAltseek (c : Cfg) (data : Byte) : Option TypedCommand := (directionOf c.dirAltseek0 data).map .seek

/-- `CDC_CHANGEDISC` (R233). -/
def resultChangedisc (data : Byte) : Option TypedCommand := (discOf data).map .changeDisc

/-- `CDC_SCANDISC` (R234). -/
def resultScandisc (data : Byte) : Option TypedCommand := (onoff data).map .scanDisc

/-- `CDC_RANDOMIZE` (R235). -/
def resultRandomize (data : Byte) : Option TypedCommand := (onoff data).map .randomize

/-- The typed command of an inbound message; the decoder yields no other instruction. -/
def messageResult (c : Cfg) : Instr → Option TypedCommand
  | .traffic _ _ _ => resultTraffic
  | .poll _ _ => resultPoll
  | .cdcStatus _ _ data => resultStatus data
  | .cdcStop _ _ data => resultStop data
  | .cdcPause _ _ data => resultPause data
  | .cdcPlay _ _ data => resultPlay data
  | .cdcFastplay _ _ data => resultFastplay c data
  | .cdcSeek _ _ data => resultSeek c data
  | .cdcAltseek _ _ data => resultAltseek c data
  | .cdcChangedisc _ _ data => resultChangedisc data
  | .cdcScandisc _ _ data => resultScandisc data
  | .cdcRandomize _ _ data => resultRandomize data
  | .poolAlloc _ | .poolTryAlloc _ | .poolFree _ _ | .rxByte _ | .rxParityErr | .rxIdle | .frameEnd _ | .xor8 _
  | .frameValidate _ | .frameParse _ | .rxtStep | .cmdTake | .framePopulate _ _ _ | .txSend _ _ _ | .txtStart | .dmaByte
  | .dmaComplete | .ctsFall | .ctsRise | .arbStep | .txtWakeColl | .txtWakeDone | .txtGapEnd | .cmdDecode _ | .trackFold _
  | .bcd8 _ | .statusEncode _ | .sendStatus _ | .stStopped _ | .stPaused _ | .stPlaying _ | .stFastplayingF _
  | .stFastplayingR _ | .stSeekingF _ | .stSeekingR _ | .stLoadingdisc _ | .stCheckingfordisc _ _ _ _ | .announce _
  | .pollResponse _ => none

/-- `CMD_DECODE(f)` (R220): `none` for a run the decoder rejects (R221, R222, R236) and for an out-of-range data byte (R225). -/
def cmdDecode (c : Cfg) (f : List Byte) : Option TypedCommand :=
  match decode c f with
  | .ok i => messageResult c i
  | .error _ => none

/-- The effect of `RXT_STEP` once the result `r` of the head run is known (spec/41_rx_framer.md R165): pop the handle, deliver the
command if there is one, free the slot. Holds on an empty `rxq`, and on a full `cmdq` when there is a command. -/
def deliver (r : Option TypedCommand) (s : State) : Out :=
  match s.rxq with
  | [] => hold s
  | h :: rest =>
    if r = none ∨ hasRoom s.cmdq s.cfg.cmdqCap = true then
      finish .done (release { s with rxq := rest, cmdq := s.cmdq ++ r.toList } .prx ⟨.prx, h⟩)
    else hold s

/-- The bytes of the run at the head of `rxq`, in slot `h` (spec/41_rx_framer.md R165: `PRX.buf[h][0..PRX.len[h])`). -/
def runBytes (s : State) (h : Nat) : Except Fault (List Byte) :=
  match s.prx.len[h]? with
  | some n => slotRead s .prx h 0 n
  | none => .error .outOfRange

/-- `RXT_STEP`'s `r`: a run whose tag is not `Ok` is dropped unread; then validation; then the translator (R165). -/
def runResult (s : State) (h : Nat) : Except Fault (Option TypedCommand) :=
  match s.prxTag[h]? with
  | some .ok =>
    match runBytes s h with
    | .ok f => .ok (if frameValidate s.cfg f then cmdDecode s.cfg f else none)
    | .error e => .error e
  | some .parityError => .ok none
  | some .bufferOverrun => .ok none
  | none => .error .outOfRange

/-- `TRAFFIC` (R223), executed by the RX task. -/
def execTraffic (_src _dst : Byte) (_payload : List Byte) (s : State) : Out := deliver resultTraffic s

/-- `POLL` (R224), executed by the RX task. -/
def execPoll (_src _dst : Byte) (s : State) : Out := deliver resultPoll s

/-- `CDC_STATUS` (R226), executed by the RX task. -/
def execCdcStatus (_src _dst data : Byte) (s : State) : Out := deliver (resultStatus data) s

/-- `CDC_STOP` (R227), executed by the RX task. -/
def execCdcStop (_src _dst data : Byte) (s : State) : Out := deliver (resultStop data) s

/-- `CDC_PAUSE` (R228), executed by the RX task. -/
def execCdcPause (_src _dst data : Byte) (s : State) : Out := deliver (resultPause data) s

/-- `CDC_PLAY` (R229), executed by the RX task. -/
def execCdcPlay (_src _dst data : Byte) (s : State) : Out := deliver (resultPlay data) s

/-- `CDC_FASTPLAY` (R230), executed by the RX task. -/
def execCdcFastplay (_src _dst data : Byte) (s : State) : Out := deliver (resultFastplay s.cfg data) s

/-- `CDC_SEEK` (R231), executed by the RX task. -/
def execCdcSeek (_src _dst data : Byte) (s : State) : Out := deliver (resultSeek s.cfg data) s

/-- `CDC_ALTSEEK` (R232), executed by the RX task. -/
def execCdcAltseek (_src _dst data : Byte) (s : State) : Out := deliver (resultAltseek s.cfg data) s

/-- `CDC_CHANGEDISC` (R233), executed by the RX task. -/
def execCdcChangedisc (_src _dst data : Byte) (s : State) : Out := deliver (resultChangedisc data) s

/-- `CDC_SCANDISC` (R234), executed by the RX task. -/
def execCdcScandisc (_src _dst data : Byte) (s : State) : Out := deliver (resultScandisc data) s

/-- `CDC_RANDOMIZE` (R235), executed by the RX task. -/
def execCdcRandomize (_src _dst data : Byte) (s : State) : Out := deliver (resultRandomize data) s

end Sys2Proof.Machine
end

