-- ==== Sys2Proof/Machine/Receive.lean ====
section
/-! DEFINITION. The receive path: the byte assembler, the checksum validator, the RX task and the host's taking of commands
(spec/41_rx_framer.md). -/

namespace Sys2Proof.Machine

/-- `RX_BYTE(b)`: store the byte, or set the overrun tag and discard it when the scratch buffer is full (R151). -/
def execRxByte (b : Byte) (s : State) : Out :=
  if s.rxCnt < s.cfg.rxCap then
    finish .done { s with
      mem := Memory.write s.mem (rxBufBase s.cfg + s.rxCnt) b
      rxCnt := s.rxCnt + 1
      rxIn := s.rxIn ++ [.rxByte b] }
  else finish .done { s with rxTag := .bufferOverrun, rxIn := s.rxIn ++ [.rxByte b] }

/-- The scratch registers between frames (R156: cleared in every branch). -/
def clearScratch (s : State) : State := { s with rxCnt := 0, rxTag := .ok }

/-- The accumulated bytes `rx_buf[0..rx_cnt)` (spec/10_state.md R27, R28). -/
def scratchBytes (s : State) : Except Fault (List Byte) :=
  if s.rxCnt ≤ s.cfg.rxCap then
    match Memory.readN s.mem (rxBufBase s.cfg) s.rxCnt with
    | some bs => .ok bs
    | none => .error .unspecifiedRead
  else .error .outOfRange

/-- Fill the claimed slot `h` and queue it (R156, the first branch); `s` is the state after the claim. -/
def queueRun (t : Tag) (h : Nat) (s : State) : Except Fault State :=
  match scratchBytes s with
  | .ok bs =>
    match slotWrite s .prx h bs with
    | .ok s' => .ok { (s'.setLen .prx h s.rxCnt).setTag h t with rxq := s.rxq ++ [h] }
    | .error e => .error e
  | .error e => .error e

/-- `FRAME_END(t)`: claim a slot without blocking, copy the run and its tag and queue it; with no free slot or a full queue the run is
discarded; the scratch registers are cleared in every branch (R156). -/
def frameEnd (t : Tag) (s : State) : Except Fault State :=
  match claim s .prx with
  | some (h, s') =>
    if hasRoom s.rxq s.cfg.rxqCap then (queueRun t h s').map clearScratch
    else .ok (clearScratch (release s' .prx ⟨.prx, h⟩))
  | none => .ok (clearScratch s)

/-- `RX_PARITY_ERR`: the frame ends at once with tag `ParityError`; the character is not stored (R153). -/
def execRxParityErr (s : State) : Out :=
  orFault (frameEnd .parityError { s with rxTag := .parityError }) fun t =>
    finish .done { t with rxIn := s.rxIn ++ [.rxParityErr] }

/-- `RX_IDLE`: the frame ends with the tag gathered so far; with nothing accumulated there is no frame (R154). -/
def execRxIdle (s : State) : Out :=
  if assemblerBusy s then
    orFault (frameEnd s.rxTag s) fun t => finish .done { t with rxIn := s.rxIn ++ [.rxIdle] }
  else finish .done { s with rxIn := s.rxIn ++ [.rxIdle] }

/-- `FRAME_END(t)` on its own (R156). -/
def execFrameEnd (t : Tag) (s : State) : Out := orFault (frameEnd t s) fun s' => finish .done s'

/-- `XOR8(s)` (R160): a pure function; it writes no state. -/
def execXor8 (bs : List Byte) (s : State) : Out := finish (.byte (xor8 bs)) s

/-- `FRAME_VALIDATE(f)` (R161). -/
def execFrameValidate (f : List Byte) (s : State) : Out := finish (.bool (frameValidate s.cfg f)) s

/-- `FRAME_PARSE(f)` (R162). -/
def execFrameParse (f : List Byte) (s : State) : Out := finish (.frame (frameParse s.cfg f)) s

/-- `RXT_STEP`: process the oldest received run (R165). -/
def execRxtStep (s : State) : Out :=
  match s.rxq with
  | [] => hold s
  | h :: _ => orFault (runResult s h) fun r => deliver r s

/-- `CMD_TAKE`: the host takes the oldest typed command; holds on an empty `cmdq` (R167). -/
def execCmdTake (s : State) : Out :=
  match s.cmdq with
  | [] => hold s
  | c :: rest => finish (.command c) { s with cmdq := rest, cmdOut := s.cmdOut ++ [c] }

/-- `CMD_DECODE(f)` (spec/43_cmd_decoder.md R220): a pure function. -/
def execCmdDecode (f : List Byte) (s : State) : Out := finish (.decoded (cmdDecode s.cfg f)) s

end Sys2Proof.Machine
end

