-- ==== Sys2Proof/Machine/Transmit.lean ====
section
/-! DEFINITION. The transmit path: the framing encoder, the producers, the transmit sequencer, the DMA engine and the collision arbiter
(spec/42_tx_transmitter.md), and the message encoder with the outbound messages (spec/44_status_encoder.md). -/

namespace Sys2Proof.Machine

/-- `FRAME_POPULATE(s, d, p)` (R181): a pure function. -/
def execFramePopulate (src dst : Byte) (p : List Byte) (s : State) : Out := finish (.image (framePopulate s.cfg src dst p)) s

/-- `TX_SEND(s, d, p)` (R183): the payload is checked before a slot is claimed; the call holds while `PTX` is exhausted or `txq` is
full; otherwise the image is written to the claimed slot and the slot queued, in one step. -/
def txSend (src dst : Byte) (p : List Byte) (s : State) : Out :=
  match framePopulate s.cfg src dst p with
  | none => finish .rejected s
  | some img =>
    if hasRoom s.txq s.cfg.txqCap then
      match claim s .ptx with
      | some (h, s') =>
        orFault (slotWrite s' .ptx h img) fun t =>
          finish .queued { t.setLen .ptx h img.length with txq := s.txq ++ [h] }
      | none => hold s
    else hold s

/-- `TX_SEND` (R183). -/
def execTxSend (src dst : Byte) (p : List Byte) (s : State) : Out := txSend src dst p s

/-- `SEND_STATUS(s) = TX_SEND(SELF_ADDR, dest, payload)` with the pair of `STATUS_ENCODE(s)` (spec/44_status_encoder.md R253). -/
def sendStatus (st : TypedStatus) (s : State) : Out :=
  txSend s.cfg.selfAddr (statusEncode s.cfg st).1 (statusEncode s.cfg st).2 s

/-- `SEND_STATUS` (spec/44_status_encoder.md R253). -/
def execSendStatus (st : TypedStatus) (s : State) : Out := sendStatus st s

/-- `TXT_START`: begin transmitting the frame at the head of the pending queue (R185). -/
def execTxtStart (s : State) : Out :=
  match s.txq with
  | [] => hold s
  | h :: rest =>
    if mayStart s then
      finish .done { s with
        txCur := h
        txq := rest
        dmaIdx := 0
        dmaActive := true
        txWake := .none
        txs := .sending
        lineOut := s.lineOut ++ [.start h] }
    else hold s

/-- `PTX.len[tx_cur]`, the transfer length, read at each step (spec/10_state.md R35); `none` if `tx_cur` names no slot. -/
def transferLen (s : State) : Option Nat := s.ptx.len[s.txCur]?

/-- `DMA_BYTE`: move the next byte of the in-flight frame to the wire; `cts` does not gate it (R186). -/
def execDmaByte (s : State) : Out :=
  if s.dmaActive then
    match transferLen s with
    | none => .fault .outOfRange
    | some n =>
      if s.dmaIdx < n then
        orFault (slotRead s .ptx s.txCur s.dmaIdx 1) fun bs =>
          finish .done { s with lineOut := s.lineOut ++ bs.map .byte, dmaIdx := s.dmaIdx + 1 }
      else hold s
  else hold s

/-- `DMA_COMPLETE`: the transfer finished; post the semaphore (R187). -/
def execDmaComplete (s : State) : Out :=
  if s.dmaActive then
    match transferLen s with
    | none => .fault .outOfRange
    | some n =>
      if s.dmaIdx = n then
        finish .done { s with dmaActive := false, txWake := postDone s.txWake, lineOut := s.lineOut ++ [.complete] }
      else hold s
  else hold s

/-- `CTS_FALL`: the bus controller deasserts CTS; a fall during a transfer raises the arbiter's interrupt (R188). An edge: enabled only
while `cts = 1`. -/
def execCtsFall (s : State) : Out :=
  if s.cts then
    finish .done { s with
      cts := false
      ctsFallPend := postFall s.dmaActive s.ctsFallPend
      rxIn := s.rxIn ++ [.ctsFall] }
  else hold s

/-- `CTS_RISE`: the bus controller asserts CTS; a pending fall stays pending (R189). -/
def execCtsRise (s : State) : Out :=
  if s.cts then hold s else finish .done { s with cts := true, rxIn := s.rxIn ++ [.ctsRise] }

/-- `ARB_STEP`: serve the CTS-fall interrupt: abort the transfer if one is active (R190). -/
def execArbStep (s : State) : Out :=
  if s.ctsFallPend then
    if s.dmaActive then
      finish .done { s with
        ctsFallPend := false
        dmaActive := false
        txWake := .collision
        lineOut := s.lineOut ++ [.abort s.dmaIdx] }
    else finish .done { s with ctsFallPend := false }
  else hold s

/-- `TXT_WAKE_COLL`: requeue the in-flight frame at the front; no gap, no retry limit (R191). A push is defined only with room
(spec/00_scope.md R11), so on a full `txq`, which needs `TXQ_CAP < N_TX`, the step holds, as a send does there (R183; DESIGN CHOICE,
log 19). -/
def execTxtWakeColl (s : State) : Out :=
  if s.txs = .sending ∧ s.txWake = .collision then
    if hasRoom s.txq s.cfg.txqCap then
      finish .done { s with txq := s.txCur :: s.txq, txWake := .none, txs := .idle }
    else hold s
  else hold s

/-- `TXT_WAKE_DONE`: the frame was sent: free its slot and take the inter-message gap (R192). -/
def execTxtWakeDone (s : State) : Out :=
  if s.txs = .sending ∧ s.txWake = .done then
    finish .done { release s .ptx ⟨.ptx, s.txCur⟩ with txWake := .none, txs := .gap }
  else hold s

/-- `TXT_GAP_END`: the inter-message gap has elapsed (R193). -/
def execTxtGapEnd (s : State) : Out := if s.txs = .gap then finish .done { s with txs := .idle } else hold s

/-! ### The message encoder -/

/-- `TRACK_FOLD(t)` (spec/44_status_encoder.md R250): a pure function. -/
def execTrackFold (t : Byte) (s : State) : Out := finish (.number (trackFold s.cfg t)) s

/-- `BCD8(m)` (spec/44_status_encoder.md R251): a pure function. -/
def execBcd8 (m : Fin 100) (s : State) : Out := finish (.byte (bcd8 m.val)) s

/-- `STATUS_ENCODE(s)` (spec/44_status_encoder.md R252): a pure function. -/
def execStatusEncode (st : TypedStatus) (s : State) : Out :=
  finish (.encoded (statusEncode s.cfg st).1 (statusEncode s.cfg st).2) s

/-- `ST_STOPPED` (R254), sent. -/
def execStStopped (c : Common) (s : State) : Out := sendStatus ⟨.stopped, c⟩ s

/-- `ST_PAUSED` (R255), sent. -/
def execStPaused (c : Common) (s : State) : Out := sendStatus ⟨.paused, c⟩ s

/-- `ST_PLAYING` (R256), sent. -/
def execStPlaying (c : Common) (s : State) : Out := sendStatus ⟨.playing, c⟩ s

/-- `ST_FASTPLAYING_F` (R257), sent. -/
def execStFastplayingF (c : Common) (s : State) : Out := sendStatus ⟨.fastPlaying .fwd, c⟩ s

/-- `ST_FASTPLAYING_R` (R258), sent. -/
def execStFastplayingR (c : Common) (s : State) : Out := sendStatus ⟨.fastPlaying .rev, c⟩ s

/-- `ST_SEEKING_F` (R259), sent. -/
def execStSeekingF (c : Common) (s : State) : Out := sendStatus ⟨.seeking .fwd, c⟩ s

/-- `ST_SEEKING_R` (R260), sent. -/
def execStSeekingR (c : Common) (s : State) : Out := sendStatus ⟨.seeking .rev, c⟩ s

/-- `ST_LOADINGDISC` (R261), sent. -/
def execStLoadingdisc (c : Common) (s : State) : Out := sendStatus ⟨.loadingDisc, c⟩ s

/-- `ST_CHECKINGFORDISC` (R262, R265), sent. -/
def execStCheckingfordisc (c : Common) (mask : Byte) (disc : Disc) (failed : Bool) (s : State) : Out :=
  sendStatus ⟨.checkingForDisc mask disc failed, c⟩ s

/-- `ANNOUNCE` (R263), sent. -/
def execAnnounce (c : Common) (s : State) : Out := sendStatus ⟨.announce, c⟩ s

/-- `POLL_RESPONSE` (R264), sent. -/
def execPollResponse (c : Common) (s : State) : Out := sendStatus ⟨.pollResponse, c⟩ s

end Sys2Proof.Machine
end

