-- ==== Sys2Proof/Machine/HostAgent.lean ====
section
/-! DEFINITION. The host agent: the changer application state machine (spec/45_host_changer_fsm.md). It is the client of the block,
not the block; its steps are no rows of the opcode table and enter a run through the schedule. A step whose emission may hold leaves
it in `hostPend`, and `resume` makes it: between the two any other agent may move (log 20). -/

namespace Sys2Proof.Machine

/-- `AUDIO_OF` (R281). -/
def audioOf (c : Cfg) : Play → Byte
  | .stopped => c.audioStopped
  | .playing => c.audioPlaying
  | .paused => c.audioPaused

/-- "common fields of `cs`" (R282). -/
def commonOf (cs : ChangerState) : Common := ⟨cs.audioState, cs.discBitmap, cs.currentDisc, cs.currentTrack⟩

/-- The variant of `mirror(cs)` (R282). -/
def mirrorVariant (cs : ChangerState) : Variant :=
  match cs.play with
  | .stopped => .stopped
  | .paused => .paused
  | .playing => .playing

/-- `mirror(cs)` (R282). -/
def mirror (cs : ChangerState) : TypedStatus := ⟨mirrorVariant cs, commonOf cs⟩

/-- `play <- p`, `audio_state <- AUDIO_OF(p)` (R285). -/
def setPlay (c : Cfg) (p : Play) (cs : ChangerState) : ChangerState := { cs with play := p, audioState := audioOf c p }

/-- The state change of `dispatch(c)` (R285). -/
def dispatchState (c : Cfg) (cs : ChangerState) : TypedCommand → ChangerState
  | .stop => setPlay c .stopped cs
  | .pause => setPlay c .paused cs
  | .play => setPlay c .playing cs
  | .status | .fastPlay _ | .seek _ | .changeDisc _ | .scanDisc _ | .randomize _ | .poll | .traffic => cs

/-- What `dispatch(c)` forwards to the playback engine (R285). For `FastPlay(d)` the table says "not given" and D27 says nothing: that
nothing is forwarded is the model's choice (DESIGN CHOICE, log 32). -/
def dispatchForward : TypedCommand → List EngineCmd
  | .stop => [.stop]
  | .pause => [.pause]
  | .play => [.play]
  | .seek .fwd => [.seekNext]
  | .seek .rev => [.seekPrev]
  | .changeDisc n => [.changeDisc n]
  | .scanDisc x => [.scanDisc x]
  | .randomize x => [.randomize x]
  | .status | .fastPlay _ | .poll | .traffic => []

/-- The status `dispatch(c)` emits, if any, by its variant; `cs` is the state after the change (R285). -/
def dispatchEmit (cs : ChangerState) : TypedCommand → List HostAction
  | .traffic => []
  | .poll => [.send .pollResponse]
  | .fastPlay d => [.send (.fastPlaying d)]
  | .status | .stop | .pause | .play | .seek _ | .changeDisc _ | .scanDisc _ | .randomize _ => [.send (mirrorVariant cs)]

/-- `MAG_BIT` (spec/30_encoding.md R101). -/
def magBit : Byte := 0x80

/-- `DISC_BITS` (spec/30_encoding.md R101). -/
def discBits : Byte := 0x3F

/-- `disc_bit(i) = 1 << (i-1)` (spec/30_encoding.md R101). -/
def discBit (d : Disc) : Byte := BitVec.ofNat 8 (1 <<< (d.toNat - 1))

/-- `before_mask = (1 << (i-1)) - 1` (R292). -/
def beforeMask (d : Disc) : Byte := BitVec.ofNat 8 ((1 <<< (d.toNat - 1)) - 1)

/-- `cumulative_mask = (1 << i) - 1` (R292). -/
def cumulativeMask (d : Disc) : Byte := BitVec.ofNat 8 ((1 <<< d.toNat) - 1)

/-- The two messages of one disc's probe (R292, spec/44_status_encoder.md R265). -/
def probeActions (b : Byte) (d : Disc) : List HostAction :=
  [.send (.checkingForDisc (beforeMask d &&& b) d false),
   .send (.checkingForDisc (cumulativeMask d &&& b) d (decide (discBit d &&& b = 0)))]

/-- The enumeration of bitmask `b`: twelve `CheckingForDisc`, then the final fields, then `Stopped` (R292). -/
def enumerationActions (b : Byte) : List HostAction :=
  Disc.all.flatMap (probeActions b) ++ [.finishEnumeration b, .send .stopped]

/-- The disc state a sensor bitmask is classified to (R290). -/
def classifySensor (b : Byte) : Magazine :=
  if b = 0 then .noMagazine else if b &&& magBit ≠ 0 ∧ b &&& discBits = 0 then .noDiscs else .enumerating

/-- `NoMagazine` and `NoDiscs`: stop, zero disc and track, take the bitmask (R291). -/
def emptyMagazine (c : Cfg) (m : Magazine) (b : Byte) (cs : ChangerState) : ChangerState :=
  { setPlay c .stopped cs with disc := m, discBitmap := b, currentDisc := 0, currentTrack := 0 }

/-- The fields after an enumeration: disc 2, track 1, whatever the bitmask (R292, R293). -/
def enumerated (b : Byte) (cs : ChangerState) : ChangerState :=
  { cs with disc := .discsPresent, discBitmap := b, currentDisc := 2, currentTrack := 1 }

/-- Send a status for the host: `k` is the rest of the step, performed unless the send held (R292, R294). -/
def hostSend (st : TypedStatus) (s : State) (k : State → State) : Out :=
  match sendStatus st s with
  | .next t => if t.ret = .held then .next t else .next (k t)
  | .fault e => .fault e
  | .refused r => .refused r

/-- The host is between steps: it has booted and has no emission left to make. -/
def hostReady (s : State) : Bool := s.booted && s.hostPend.isEmpty

/-- The announce budget is not spent (R283). -/
def budgetLeft (s : State) : Bool :=
  match s.cfg.announceBudget with
  | none => true
  | some n => decide (s.announces < n)

/-- `HOST_BOOT`: the first step of the host (R283). -/
def hostBoot (s : State) : Out :=
  if s.booted then hold s
  else hostSend ⟨.announce, commonOf s.cs⟩ s fun t => { t with announces := 1, booted := true }

/-- `HOST_ANNOUNCE_TICK` (R283). -/
def hostAnnounceTick (s : State) : Out :=
  if hostReady s && decide (s.cs.lifecycle = .notConnected) && s.cmdq.isEmpty && budgetLeft s then
    hostSend ⟨.announce, commonOf s.cs⟩ s fun t => { t with announces := s.announces + 1 }
  else hold s

/-- The first command connects, and is itself dispatched (R284). -/
def connect (cs : ChangerState) : ChangerState := { cs with lifecycle := .connected }

/-- `HOST_CMD`: take a command, connect, change the state, forward to the engine; the emission is left to `resume` (R284, R285). -/
def hostCmd (s : State) : Out :=
  if hostReady s then
    match s.cmdq with
    | [] => hold s
    | c :: rest =>
      let cs' := dispatchState s.cfg (connect s.cs) c
      finish .done { s with
        cmdq := rest
        cmdOut := s.cmdOut ++ [c]
        cs := cs'
        engineOut := s.engineOut ++ dispatchForward c
        hostPend := dispatchEmit cs' c }
  else hold s

/-- The playback engine's reports `Playing`, `Paused`, `Stopped`: as the commands do, without forwarding (R286). -/
def hostReport (p : Play) (s : State) : Out :=
  let cs' := setPlay s.cfg p s.cs
  finish .done { s with cs := cs', hostPend := [.send (mirrorVariant cs')] }

/-- `EndOfSong`, `Error`: the host may change track, disc, play and audio state in any way and emit any statuses (R286): a free value.
What it forwards to the playback engine is a part of that value (DESIGN CHOICE, log 18: D27 says "any host behaviour"); the other fields
of `cs`, which R286 does not list, stay. -/
def hostOpenEvent (e : EngineEvent) (s : State) : Out :=
  let v := Config.engineOpen e s.freeCtr
  finish .done { s with
    cs := { s.cs with currentTrack := v.currentTrack, currentDisc := v.currentDisc, play := v.play, audioState := v.audioState }
    hostPend := v.statuses.map .sendExact
    engineOut := s.engineOut ++ v.forwarded
    freeCtr := s.freeCtr + 1 }

/-- `HOST_ENGINE(e)` (R286). -/
def hostEngine (e : EngineEvent) (s : State) : Out :=
  if hostReady s then
    match e with
    | .playing => hostReport .playing s
    | .paused => hostReport .paused s
    | .stopped => hostReport .stopped s
    | .endOfSong => hostOpenEvent .endOfSong s
    | .error => hostOpenEvent .error s
  else hold s

/-- `HOST_SENSOR(B)` (R290 to R292). -/
def hostSensor (b : Byte) (s : State) : Out :=
  if hostReady s then
    match classifySensor b with
    | .enumerating =>
      finish .done { s with cs := { s.cs with disc := .enumerating }, hostPend := enumerationActions b }
    | m =>
      finish .done { s with
        cs := emptyMagazine s.cfg m b s.cs
        engineOut := s.engineOut ++ [.stop]
        hostPend := [.send .stopped] }
  else hold s

/-- The next action of a host step in progress; a send that holds stays where it is (R292, R294). -/
def hostResume (s : State) : Out :=
  match s.hostPend with
  | [] => hold s
  | .send v :: rest => hostSend ⟨v, commonOf s.cs⟩ s fun t => { t with hostPend := rest }
  | .sendExact st :: rest => hostSend st s fun t => { t with hostPend := rest }
  | .finishEnumeration b :: rest => finish .done { s with cs := enumerated b s.cs, hostPend := rest }

/-- A step of the host agent. -/
def hostExec (h : HostStep) (s : State) : Out :=
  match h with
  | .boot => hostBoot s
  | .announceTick => hostAnnounceTick s
  | .cmd => hostCmd s
  | .engine e => hostEngine e s
  | .sensor b => hostSensor b s
  | .resume => hostResume s

end Sys2Proof.Machine
end

