-- ==== Sys2Proof/Machine/PoolOps.lean ====
section
/-! DEFINITION. The frame-pool allocator: `POOL_ALLOC`, `POOL_TRY_ALLOC`, `POOL_FREE` (spec/40_frame_pool.md). -/

namespace Sys2Proof.Machine

/-- `POOL_ALLOC(P)`: claim a free slot and return its handle; hold while none is free (spec/40_frame_pool.md R131, R135). -/
def execPoolAlloc (p : Pool) (s : State) : Out :=
  match claim s p with
  | some (i, t) => finish (.handle ⟨p, i⟩) { t with held := ⟨p, i⟩ :: s.held }
  | none => hold s

/-- `POOL_TRY_ALLOC(P)`: the non-blocking form: `none` on exhaustion, and nothing changes (spec/40_frame_pool.md R132). -/
def execPoolTryAlloc (p : Pool) (s : State) : Out :=
  match claim s p with
  | some (i, t) => finish (.tryHandle (some ⟨p, i⟩)) { t with held := ⟨p, i⟩ :: s.held }
  | none => finish (.tryHandle none) s

/-- `POOL_FREE(P, h)`: clear `in_use`, whatever it held; an unrecognised handle is a no-op (spec/40_frame_pool.md R133). The caller no
longer holds the handle (the ghost of spec/10_state.md R26). -/
def execPoolFree (p : Pool) (h : Handle) (s : State) : Out :=
  if recognised s p h then finish .done { release s p h with held := s.held.erase h } else finish .done s

end Sys2Proof.Machine
end

