-- ==== Sys2Proof/Machine/Dispatch.lean ====
section
/-! DEFINITION. The dispatcher: one arm for each constructor of `Instr`, each one direct call of that instruction's meaning. -/

namespace Sys2Proof.Machine

open Sys2Proof

def exec (i : Instr) (s : State) : Host.Outcome State Fault Refusal :=
  match i with
  | .poolAlloc p => Sys2Proof.Machine.execPoolAlloc p s
  | .poolTryAlloc p => Sys2Proof.Machine.execPoolTryAlloc p s
  | .poolFree p h => Sys2Proof.Machine.execPoolFree p h s
  | .rxByte b => Sys2Proof.Machine.execRxByte b s
  | .rxParityErr => Sys2Proof.Machine.execRxParityErr s
  | .rxIdle => Sys2Proof.Machine.execRxIdle s
  | .frameEnd t => Sys2Proof.Machine.execFrameEnd t s
  | .xor8 bs => Sys2Proof.Machine.execXor8 bs s
  | .frameValidate f => Sys2Proof.Machine.execFrameValidate f s
  | .frameParse f => Sys2Proof.Machine.execFrameParse f s
  | .rxtStep => Sys2Proof.Machine.execRxtStep s
  | .cmdTake => Sys2Proof.Machine.execCmdTake s
  | .framePopulate src dst payload => Sys2Proof.Machine.execFramePopulate src dst payload s
  | .txSend src dst payload => Sys2Proof.Machine.execTxSend src dst payload s
  | .txtStart => Sys2Proof.Machine.execTxtStart s
  | .dmaByte => Sys2Proof.Machine.execDmaByte s
  | .dmaComplete => Sys2Proof.Machine.execDmaComplete s
  | .ctsFall => Sys2Proof.Machine.execCtsFall s
  | .ctsRise => Sys2Proof.Machine.execCtsRise s
  | .arbStep => Sys2Proof.Machine.execArbStep s
  | .txtWakeColl => Sys2Proof.Machine.execTxtWakeColl s
  | .txtWakeDone => Sys2Proof.Machine.execTxtWakeDone s
  | .txtGapEnd => Sys2Proof.Machine.execTxtGapEnd s
  | .cmdDecode f => Sys2Proof.Machine.execCmdDecode f s
  | .trackFold t => Sys2Proof.Machine.execTrackFold t s
  | .bcd8 m => Sys2Proof.Machine.execBcd8 m s
  | .statusEncode st => Sys2Proof.Machine.execStatusEncode st s
  | .sendStatus st => Sys2Proof.Machine.execSendStatus st s
  | .traffic src dst payload => Sys2Proof.Machine.execTraffic src dst payload s
  | .poll src dst => Sys2Proof.Machine.execPoll src dst s
  | .cdcStatus src dst data => Sys2Proof.Machine.execCdcStatus src dst data s
  | .cdcStop src dst data => Sys2Proof.Machine.execCdcStop src dst data s
  | .cdcPause src dst data => Sys2Proof.Machine.execCdcPause src dst data s
  | .cdcPlay src dst data => Sys2Proof.Machine.execCdcPlay src dst data s
  | .cdcFastplay src dst data => Sys2Proof.Machine.execCdcFastplay src dst data s
  | .cdcSeek src dst data => Sys2Proof.Machine.execCdcSeek src dst data s
  | .cdcAltseek src dst data => Sys2Proof.Machine.execCdcAltseek src dst data s
  | .cdcChangedisc src dst data => Sys2Proof.Machine.execCdcChangedisc src dst data s
  | .cdcScandisc src dst data => Sys2Proof.Machine.execCdcScandisc src dst data s
  | .cdcRandomize src dst data => Sys2Proof.Machine.execCdcRandomize src dst data s
  | .stStopped c => Sys2Proof.Machine.execStStopped c s
  | .stPaused c => Sys2Proof.Machine.execStPaused c s
  | .stPlaying c => Sys2Proof.Machine.execStPlaying c s
  | .stFastplayingF c => Sys2Proof.Machine.execStFastplayingF c s
  | .stFastplayingR c => Sys2Proof.Machine.execStFastplayingR c s
  | .stSeekingF c => Sys2Proof.Machine.execStSeekingF c s
  | .stSeekingR c => Sys2Proof.Machine.execStSeekingR c s
  | .stLoadingdisc c => Sys2Proof.Machine.execStLoadingdisc c s
  | .stCheckingfordisc c mask disc lastFailed => Sys2Proof.Machine.execStCheckingfordisc c mask disc lastFailed s
  | .announce c => Sys2Proof.Machine.execAnnounce c s
  | .pollResponse c => Sys2Proof.Machine.execPollResponse c s

end Sys2Proof.Machine
end

