-- ==== Sys2Proof/Machine/Schedule.lean ====
section
/-! DEFINITION. How a schedule entry is performed: fetching the message at the head of `rxq`, an operation by its agent, a host step; and
placing a run or an entry where the next step fetches it. -/

namespace Sys2Proof.Machine

/-- The message the RX task would fetch: the head run's bytes, read and decoded; `none` if there is no run, its tag is not `Ok`, its
bytes cannot be read or the decoder rejects them (spec/41_rx_framer.md R165). -/
def fetchMessage (s : State) : Option Instr :=
  match s.rxq with
  | [] => none
  | h :: _ =>
    match s.prxTag[h]?, runBytes s h with
    | some .ok, .ok f => (decode s.cfg f).toOption
    | _, _ => none

/-- The schedule may perform `i` by itself in `s`. An inbound message is no operation of an agent: listing one asks the RX task for
its step, which has that meaning only when the fetched message is that one (log 13). A sub-step is performed by the operations it is
part of, never by itself (spec/41_rx_framer.md R156, spec/70_reset_and_hazards.md R352). -/
def issuable (i : Instr) (s : State) : Bool :=
  if isInbound i then decide (fetchMessage s = some i) else !isSubStep i

/-- Perform an instruction the schedule lists. -/
def issue (i : Instr) (s : State) : Out := if issuable i s then exec i s else hold s

/-- Perform a schedule entry's action. -/
def perform (a : Action) (s : State) : Out :=
  match a with
  | .op i => issue i s
  | .host h => hostExec h s

/-- The state in which an entry is performed: the entry is taken from the schedule and its `pick` resolves the slot choice. -/
def takeEntry (e : Entry) (rest : List Entry) (s : State) : State := { s with sched := rest, pick := e.pick }

/-- Put a received run, tagged `Ok`, into PRX slot 0 and at the head of `rxq`. -/
def placeRun (f : List Byte) (s : State) : State :=
  let t := ((s.setInUse .prx 0 true).setLen .prx 0 f.length).setTag 0 .ok
  { t with
    mem := Memory.writeN s.mem (slotBase s.cfg .prx 0) f
    rxq := 0 :: s.rxq.filter (fun h => h != 0) }

/-- Put an operation at the head of the schedule, keeping the present slot choice. -/
def schedNext (i : Instr) (s : State) : State := { s with sched := ⟨s.pick, .op i⟩ :: s.sched }

/-- Put a table word where the next step fetches it: an inbound row's frame at the head of `rxq` with the RX task next; an outbound
row's message as the host's next operation. A word no row matches is placed as the frame it would be. -/
def placeWord (payload : List Byte) (s : State) : State :=
  match decode s.cfg (tableFrame s.cfg payload), decodeStatus s.cfg payload with
  | .error _, some i => schedNext i s
  | _, _ => schedNext .rxtStep (placeRun (tableFrame s.cfg payload) s)

end Sys2Proof.Machine
end

