-- ==== Sys2Proof/Machine/Step.lean ====
section
/-! DEFINITION. One step of the machine: the next entry of the schedule (spec/60_exceptions.md R320, R322). A `Cfg` outside its
constraints is refused (R335); with nothing scheduled nothing happens (spec/70_reset_and_hazards.md R352). -/

namespace Sys2Proof.Machine

/-- One step. -/
def step (s : State) : Host.Outcome State Fault Refusal :=
  if s.cfg.wf then
    match s.sched with
    | [] => .next s
    | e :: rest => perform e.act (takeEntry e rest s)
  else .refused .badConfig

/-- `s` with the table word stored where `step` fetches its next instruction. -/
def State.withFetchWord (s : State) (nbits w : Nat) : State := placeWord (wordBytes nbits w) s

end Sys2Proof.Machine
end

