-- ==== Sys2Proof/Machine/Causes.lean ====
section
/-! DEFINITION. What the spec says about an operation beside its effect: its agent and context (spec/30_encoding.md R118,
spec/60_exceptions.md R330) and the cause that keeps an attempt from having its full effect (R311). None of it is state: no operation
reads or records a cause (R310; the last column of R311). -/

namespace Sys2Proof.Machine

/-- The agent of an operation (spec/30_encoding.md R118); `none` for a pure function and for the pool operations any task or holder
may call. Inbound messages are executed by `RXT`, outbound ones sent by `HOST`. -/
def agentOf : Instr → Option Agent
  | .poolAlloc _ | .poolFree _ _ => none
  | .poolTryAlloc _ | .frameEnd _ => some .rxa
  | .rxByte _ | .rxParityErr | .rxIdle => some .rxa
  | .xor8 _ | .frameValidate _ | .frameParse _ | .framePopulate _ _ _ | .cmdDecode _ | .trackFold _ | .bcd8 _
  | .statusEncode _ => none
  | .rxtStep => some .rxt
  | .cmdTake | .txSend _ _ _ | .sendStatus _ => some .host
  | .txtStart | .txtWakeColl | .txtWakeDone | .txtGapEnd => some .txt
  | .dmaByte | .dmaComplete => some .dma
  | .ctsFall | .ctsRise => some .line
  | .arbStep => some .arb
  | .traffic _ _ _ | .poll _ _ | .cdcStatus _ _ _ | .cdcStop _ _ _ | .cdcPause _ _ _ | .cdcPlay _ _ _ | .cdcFastplay _ _ _
  | .cdcSeek _ _ _ | .cdcAltseek _ _ _ | .cdcChangedisc _ _ _ | .cdcScandisc _ _ _ | .cdcRandomize _ _ _ => some .rxt
  | .stStopped _ | .stPaused _ | .stPlaying _ | .stFastplayingF _ | .stFastplayingR _ | .stSeekingF _ | .stSeekingR _
  | .stLoadingdisc _ | .stCheckingfordisc _ _ _ _ | .announce _ | .pollResponse _ => some .host

/-- The input events, which the environment delivers (spec/30_encoding.md R118, spec/60_exceptions.md R315). -/
def isEvent : Instr → Bool
  | .rxByte _ | .rxParityErr | .rxIdle | .ctsFall | .ctsRise => true
  | .poolAlloc _ | .poolTryAlloc _ | .poolFree _ _ | .frameEnd _ | .xor8 _ | .frameValidate _ | .frameParse _ | .rxtStep
  | .cmdTake | .framePopulate _ _ _ | .txSend _ _ _ | .txtStart | .dmaByte | .dmaComplete | .arbStep | .txtWakeColl
  | .txtWakeDone | .txtGapEnd | .cmdDecode _ | .trackFold _ | .bcd8 _ | .statusEncode _ | .sendStatus _ | .traffic _ _ _
  | .poll _ _ | .cdcStatus _ _ _ | .cdcStop _ _ _ | .cdcPause _ _ _ | .cdcPlay _ _ _ | .cdcFastplay _ _ _ | .cdcSeek _ _ _
  | .cdcAltseek _ _ _ | .cdcChangedisc _ _ _ | .cdcScandisc _ _ _ | .cdcRandomize _ _ _ | .stStopped _ | .stPaused _
  | .stPlaying _ | .stFastplayingF _ | .stFastplayingR _ | .stSeekingF _ | .stSeekingR _ | .stLoadingdisc _
  | .stCheckingfordisc _ _ _ _ | .announce _ | .pollResponse _ => false

/-- The agent that performs a schedule entry's action. -/
def agentOfAction : Action → Option Agent
  | .op i => agentOf i
  | .host _ => some .host

/-- The operation an action is an occurrence of: an inbound message is the RX task's `RXT_STEP` on the run that carries it
(spec/41_rx_framer.md R165, log 13); every other action is its own, with its operands. -/
def operationOf : Action → Action
  | .op i => if isInbound i then .op .rxtStep else .op i
  | .host h => .host h

/-- The context of an operation (spec/30_encoding.md R118, spec/60_exceptions.md R330). -/
def contextOf : Instr → Context
  | .poolTryAlloc _ | .frameEnd _ | .rxByte _ | .rxParityErr | .rxIdle | .dmaComplete | .arbStep => .interrupt
  | .dmaByte | .ctsFall | .ctsRise => .hardware
  | .xor8 _ | .frameValidate _ | .frameParse _ | .framePopulate _ _ _ | .cmdDecode _ | .trackFold _ | .bcd8 _
  | .statusEncode _ => .pure
  | .poolAlloc _ | .poolFree _ _ | .rxtStep | .cmdTake | .txSend _ _ _ | .sendStatus _ | .txtStart | .txtWakeColl
  | .txtWakeDone | .txtGapEnd | .traffic _ _ _ | .poll _ _ | .cdcStatus _ _ _ | .cdcStop _ _ _ | .cdcPause _ _ _
  | .cdcPlay _ _ _ | .cdcFastplay _ _ _ | .cdcSeek _ _ _ | .cdcAltseek _ _ _ | .cdcChangedisc _ _ _ | .cdcScandisc _ _ _
  | .cdcRandomize _ _ _ | .stStopped _ | .stPaused _ | .stPlaying _ | .stFastplayingF _ | .stFastplayingR _
  | .stSeekingF _ | .stSeekingR _ | .stLoadingdisc _ | .stCheckingfordisc _ _ _ _ | .announce _ | .pollResponse _ => .task

/-- Why a run gives no command (R311 classes (a), (b), `SelfEcho`, `Unrecognised`; the order of tests is R312's). -/
def decodeCause (c : Cfg) (f : List Byte) : Option Cause :=
  match decode c f with
  | .error r => some r
  | .ok i => if messageResult c i = none then some .dataOutOfRange else none

/-- Why the head run gives no command: the tag first, then the bytes (R312). -/
def headCause (s : State) (h : Nat) : Option Cause :=
  match s.prxTag[h]?, runBytes s h with
  | some .parityError, _ => some .parityErrorRun
  | some .bufferOverrun, _ => some .overrunRun
  | some .ok, .ok f => decodeCause s.cfg f
  | _, _ => none

/-- Why a frame end discards its run: no free slot or a full `rxq` (`RxNoSlot`, R311). -/
def frameEndCause (s : State) : Option Cause :=
  if (claim s .prx).isNone || !hasRoom s.rxq s.cfg.rxqCap then some .rxNoSlot else none

/-- Why a payload is rejected (`PayloadEmpty`, `PayloadTooLong`, R311). -/
def populateCause (c : Cfg) (p : List Byte) : Option Cause :=
  if p.length = 0 then some .payloadEmpty else if c.maxPayloadTx < p.length then some .payloadTooLong else none

/-- Why a send does not queue its frame (R311): a rejected payload, then an exhausted pool. -/
def sendCause (s : State) (p : List Byte) : Option Cause :=
  match populateCause s.cfg p with
  | some r => some r
  | none => if (claim s .ptx).isNone then some .poolFull else none

end Sys2Proof.Machine
end

