-- ==== Sys2Proof/Safety.lean ====
section
/-! DEFINITION. What counts as a safe run, in the terms the statements use: ownership of slots (spec/10_state.md R26), the discipline
of clients (spec/70_reset_and_hazards.md R360), the invariant of a run, quiescence (spec/60_exceptions.md R337), infinite runs and
weak fairness (R322), and the order of pending transmissions (spec/42_tx_transmitter.md R195). -/

namespace Sys2Proof.Machine

/-- The indices of pool `p` that callers of an allocation hold (the ghost of R26). -/
def heldIn (s : State) (p : Pool) : List Nat := (s.held.filter fun h => h.pool == p).map Handle.idx

/-- `tx_cur`, meaningful while `txs = SENDING` (spec/10_state.md R34). -/
def inFlight (s : State) : List Nat := if s.txs = .sending then [s.txCur] else []

/-- Every place a live handle of a pool can be: a queue, `tx_cur`, a caller (spec/10_state.md R26). -/
def owned (s : State) : Pool → List Nat
  | .prx => s.rxq ++ heldIn s .prx
  | .ptx => inFlight s ++ s.txq ++ heldIn s .ptx

/-- The `n` bytes from address `a` have all been written. -/
def written (m : Memory) (a n : Nat) : Prop := (Memory.readN m a n).isSome = true

/-- The invariant of a run: shapes, capacities, exclusive ownership (R26, R134), what is read has been written (R50), and the
relation of the transmit registers (R185 to R193). -/
structure Inv (s : State) : Prop where
  cfgOk : s.cfg.wf = true
  prxBits : s.prx.inUse.length = s.cfg.nRx
  prxLens : s.prx.len.length = s.cfg.nRx
  prxTags : s.prxTag.length = s.cfg.nRx
  ptxBits : s.ptx.inUse.length = s.cfg.nTx
  ptxLens : s.ptx.len.length = s.cfg.nTx
  memCanonical : Memory.wf s.mem = true
  memInside : ∀ cell ∈ s.mem, cell.1 < memSize s.cfg
  scratchFits : s.rxCnt ≤ s.cfg.rxCap
  scratchWritten : written s.mem (rxBufBase s.cfg) s.rxCnt
  rxqFits : s.rxq.length ≤ s.cfg.rxqCap
  txqFits : s.txq.length ≤ s.cfg.txqCap
  cmdqFits : s.cmdq.length ≤ s.cfg.cmdqCap
  ownedOnce : ∀ p, (owned s p).Nodup
  ownedInUse : ∀ p i, i ∈ owned s p ↔ (s.slots p).inUse[i]? = some true
  rxWritten : ∀ h ∈ s.rxq, ∃ n, s.prx.len[h]? = some n ∧ n ≤ s.cfg.rxCap ∧ written s.mem (slotBase s.cfg .prx h) n
  txWritten : ∀ h ∈ inFlight s ++ s.txq,
    ∃ n, s.ptx.len[h]? = some n ∧ n ≤ s.cfg.maxFrameTx ∧ written s.mem (slotBase s.cfg .ptx h) n
  dmaSending : s.dmaActive = true → s.txs = .sending ∧ s.txWake = .none
  sendingWakes : s.txs = .sending → s.dmaActive = false → s.txWake ≠ .none
  wakeSending : s.txs ≠ .sending → s.txWake = .none
  dmaInside : s.dmaActive = true → ∀ n, s.ptx.len[s.txCur]? = some n → s.dmaIdx ≤ n

/-- The client frees only what it holds: a `POOL_FREE` of a recognised handle is of one its caller holds (R360). Every other
operation of the block obeys the discipline by itself (spec/40_frame_pool.md R133). -/
def Disciplined (s : State) : Instr → Prop
  | .poolFree p h => recognised s p h = true → h ∈ s.held
  | _ => True

/-- The next entry of the schedule obeys the discipline. -/
def NextDisciplined (s : State) : Prop :=
  match s.sched with
  | ⟨_, .op i⟩ :: _ => Disciplined s i
  | _ => True

/-- Quiescence (spec/60_exceptions.md R337). -/
def Quiescent (s : State) : Prop :=
  s.rxq = [] ∧ s.txq = [] ∧ s.cmdq = [] ∧ s.rxCnt = 0 ∧ s.rxTag = .ok ∧ s.txs = .idle ∧ s.dmaActive = false
  ∧ s.txWake = .none ∧ s.ctsFallPend = false ∧ (∀ (p : Pool) (i : Nat), (s.slots p).inUse[i]? ≠ some true)

/-- The action is enabled: attempted now, it does not hold (spec/00_scope.md R13, R14, spec/60_exceptions.md R335). -/
def Enabled (a : Action) (s : State) : Prop := ∃ t, perform a s = .next t ∧ t.ret ≠ .held

/-- An infinite run: `st n` are its states and `en n` the entry attempted in the `n`-th, which takes the place of the schedule
(spec/60_exceptions.md R322; IBF never terminates, R337). -/
def InfiniteRun (st : Nat → State) (en : Nat → Entry) : Prop :=
  ∀ n, step { st n with sched := [en n] } = .next (st (n + 1))

/-- Weak fairness towards some agents: an operation of theirs that stays enabled is eventually taken (spec/60_exceptions.md R322,
spec/70_reset_and_hazards.md R370). The spec does not say what counts as one operation: here it is an operation with its operands,
and an inbound message taken by its own entry counts as `RXT_STEP` (DESIGN CHOICE, log 34). -/
def WeaklyFair (agents : Agent → Prop) (st : Nat → State) (en : Nat → Entry) : Prop :=
  ∀ (g : Agent) (a : Action) (n : Nat), agents g → agentOfAction a = some g → (∀ m, n ≤ m → Enabled a (st m)) →
    ∃ m, n ≤ m ∧ operationOf (en m).act = operationOf a ∧ Enabled (en m).act (st m)

/-- The frames still to be sent whole, in order: the one in flight unless its completion has been posted, then `txq` (R195). -/
def pendingTx (s : State) : List Nat :=
  (if s.txs = .sending ∧ s.txWake ≠ .done then [s.txCur] else []) ++ s.txq

/-! ### The shapes of effects -/

/-- Memory `m'` is `m` with the bytes `bs` stored from address `base` on: every byte outside them reads as before. -/
def StoresBytes (m m' : Memory) (base : Nat) (bs : List Byte) : Prop :=
  ∀ a, Memory.read m' a = if base ≤ a ∧ a < base + bs.length then bs[a - base]? else Memory.read m a

/-- The outcome claims slot `i` of pool `p` for the caller and returns `r`; nothing else changes (spec/40_frame_pool.md R131, R132). -/
def Claims (s : State) (o : Out) (p : Pool) (i : Nat) (r : Ret) : Prop :=
  o = .next { s with
    prx := if p = .prx then { s.prx with inUse := s.prx.inUse.set i true } else s.prx
    ptx := if p = .ptx then { s.ptx with inUse := s.ptx.inUse.set i true } else s.ptx
    held := ⟨p, i⟩ :: s.held
    ret := r }

/-- A PTX slot is free and `txq` has room (the guard of spec/42_tx_transmitter.md R183 for a payload it accepts). -/
def CanQueue (s : State) : Prop :=
  s.txq.length < s.cfg.txqCap ∧ ∃ i, i < s.cfg.nTx ∧ s.ptx.inUse[i]? = some false

/-- The outcome queues the frame image `img` for transmission (spec/42_tx_transmitter.md R183): a free slot is claimed, its bytes and
length written and its handle pushed at the back of `txq`; nothing else changes, but the value returned. -/
def QueuesFrame (s : State) (o : Out) (img : List Byte) : Prop :=
  ∃ i m, i < s.cfg.nTx ∧ s.ptx.inUse[i]? = some false
    ∧ o = .next { s with
        ptx := ⟨s.ptx.inUse.set i true, s.ptx.len.set i img.length⟩
        mem := m
        txq := s.txq ++ [i]
        ret := .queued }
    ∧ StoresBytes s.mem m (slotBase s.cfg .ptx i) img

/-- The outcome consumes the run in slot `h`, the head of `rxq` before `rest`, delivering `cs` (spec/41_rx_framer.md R165): the handle
is popped, the commands pushed and the slot freed; nothing else changes, but the value returned. -/
def Delivers (s : State) (o : Out) (h : Nat) (rest : List Nat) (cs : List TypedCommand) : Prop :=
  o = .next { s with
    rxq := rest
    cmdq := s.cmdq ++ cs
    prx := { s.prx with inUse := s.prx.inUse.set h false }
    ret := .done }

/-- The operation holds: nothing changes, but the value returned (spec/60_exceptions.md R335). -/
def Holds (s : State) (o : Out) : Prop := o = .next { s with ret := .held }

/-- The operation only returns a value: a pure function writes no state (spec/30_encoding.md R118). -/
def Returns (s : State) (o : Out) (r : Ret) : Prop := o = .next { s with ret := r }

/-! ### The spec's formulas, for the statements to compare with -/

/-- The image of a frame by the layout of spec/30_encoding.md R90 to R92: `[source, length, destination] ++ payload ++ [checksum]`,
`length = len(payload) + 2`, the checksum the XOR of every prior byte. -/
def imageSpec (src dst : Byte) (p : List Byte) : List Byte :=
  let head := src :: BitVec.ofNat 8 (p.length + 2) :: dst :: p
  head ++ [head.foldl (fun x y => x ^^^ y) 0]

/-- The folded track number by spec/44_status_encoder.md R250. -/
def foldSpec (c : Cfg) (t : Byte) : Nat :=
  if c.trackFold = .modulo then (if t.toNat % 100 = 0 then 1 else t.toNat % 100)
  else if t.toNat = 0 ∨ 99 < t.toNat then 1 else t.toNat

/-- The payload of a template with the four fields substituted (spec/30_encoding.md R111, spec/44_status_encoder.md R252): `bitmap`
and `disc` are the bytes for `BITMAP` and `DISC`, `failed` selects the `ERR` byte. -/
def substituted (c : Cfg) (bitmap disc : Byte) (failed : Bool) (cm : Common) (items : List Item) : List Byte :=
  items.map fun it =>
    match it with
    | .k b => b
    | .audio => cm.audioState
    | .bitmap => bitmap
    | .disc => disc
    | .track => BitVec.ofNat 8 (foldSpec c cm.currentTrack / 10 * 16 + foldSpec c cm.currentTrack % 10)
    | .err c0 c1 => if failed then c1 else c0

/-- `CDC(sub, data)` by the sub-command table of spec/30_encoding.md R108. -/
def cdcSpec (c : Cfg) (sub data : Byte) : Option TypedCommand :=
  let bin (k : TypedCommand) : Option TypedCommand := if data = 0 ∨ data = 1 then some k else none
  let dir (at0 : Direction) : Direction := if data = 0 then at0 else if at0 = .fwd then .rev else .fwd
  let sw : OnOff := if data = 0 then .off else .on
  let row := [(c.subStatus, bin .status), (c.subStop, bin .stop), (c.subPause, bin .pause), (c.subPlay, bin .play),
    (c.subFastplay, bin (.fastPlay (dir c.dirFastplay0))), (c.subSeek, bin (.seek (dir c.dirSeek0))),
    (c.subAltseek, bin (.seek (dir c.dirAltseek0))),
    (c.subChangedisc, (Disc.all.find? fun d => d.toNat == data.toNat).map .changeDisc),
    (c.subScandisc, bin (.scanDisc sw)), (c.subRandomize, bin (.randomize sw))].find? fun r => r.1 == sub
  row.bind Prod.snd

/-- `CMD_DECODE(f)` as the pseudocode of spec/43_cmd_decoder.md R220 writes it, over `FRAME_VALIDATE` of spec/41_rx_framer.md R161. -/
def cmdDecodeSpec (c : Cfg) (f : List Byte) : Option TypedCommand :=
  let valid := 4 ≤ f.length ∧ f.foldl (fun x y => x ^^^ y) 0 = 0
    ∧ (c.lenCheck = .none ∨ (f.getD 1 0).toNat = f.length - 2)
  let src := f.getD 0 0
  let len := (f.getD 1 0).toNat
  let dst := f.getD 2 0
  let p := (f.drop 3).dropLast
  if ¬ valid then none
  else if src = c.selfAddr then none
  else if ¬ (dst = c.selfAddr ∨ dst = c.bcastLo ∨ dst = c.bcastHi) then some .traffic
  else if len = 3 ∧ 1 ≤ p.length ∧ p.getD 0 0 = 0x01 then some .poll
  else if len = 5 ∧ 3 ≤ p.length ∧ p.getD 0 0 = 0x38 then cdcSpec c (p.getD 1 0) (p.getD 2 0)
  else none

/-- Entries that list the given operations, each with the slot choice `k`. -/
def entries (k : Nat) (is : List Instr) : List Entry := is.map fun i => ⟨k, .op i⟩

end Sys2Proof.Machine
end

