-- ==== Sys2Proof/Laws/State.lean ====
section
/-! SUPPORT. One lemma for each field and each named update of `State`, true by `rfl`. -/

namespace Sys2Proof.Machine

/-! ### `setSlots` -/

@[simp] theorem setSlots_cfg (s : State) (p : Pool) (v : Slots) : (s.setSlots p v).cfg = s.cfg := rfl
@[simp] theorem setSlots_prxTag (s : State) (p : Pool) (v : Slots) : (s.setSlots p v).prxTag = s.prxTag := rfl
@[simp] theorem setSlots_mem (s : State) (p : Pool) (v : Slots) : (s.setSlots p v).mem = s.mem := rfl
@[simp] theorem setSlots_rxCnt (s : State) (p : Pool) (v : Slots) : (s.setSlots p v).rxCnt = s.rxCnt := rfl
@[simp] theorem setSlots_rxTag (s : State) (p : Pool) (v : Slots) : (s.setSlots p v).rxTag = s.rxTag := rfl
@[simp] theorem setSlots_rxq (s : State) (p : Pool) (v : Slots) : (s.setSlots p v).rxq = s.rxq := rfl
@[simp] theorem setSlots_txq (s : State) (p : Pool) (v : Slots) : (s.setSlots p v).txq = s.txq := rfl
@[simp] theorem setSlots_cmdq (s : State) (p : Pool) (v : Slots) : (s.setSlots p v).cmdq = s.cmdq := rfl
@[simp] theorem setSlots_txs (s : State) (p : Pool) (v : Slots) : (s.setSlots p v).txs = s.txs := rfl
@[simp] theorem setSlots_txCur (s : State) (p : Pool) (v : Slots) : (s.setSlots p v).txCur = s.txCur := rfl
@[simp] theorem setSlots_dmaActive (s : State) (p : Pool) (v : Slots) : (s.setSlots p v).dmaActive = s.dmaActive := rfl
@[simp] theorem setSlots_dmaIdx (s : State) (p : Pool) (v : Slots) : (s.setSlots p v).dmaIdx = s.dmaIdx := rfl
@[simp] theorem setSlots_txWake (s : State) (p : Pool) (v : Slots) : (s.setSlots p v).txWake = s.txWake := rfl
@[simp] theorem setSlots_cts (s : State) (p : Pool) (v : Slots) : (s.setSlots p v).cts = s.cts := rfl
@[simp] theorem setSlots_ctsFallPend (s : State) (p : Pool) (v : Slots) : (s.setSlots p v).ctsFallPend = s.ctsFallPend := rfl
@[simp] theorem setSlots_lineOut (s : State) (p : Pool) (v : Slots) : (s.setSlots p v).lineOut = s.lineOut := rfl
@[simp] theorem setSlots_rxIn (s : State) (p : Pool) (v : Slots) : (s.setSlots p v).rxIn = s.rxIn := rfl
@[simp] theorem setSlots_cmdOut (s : State) (p : Pool) (v : Slots) : (s.setSlots p v).cmdOut = s.cmdOut := rfl
@[simp] theorem setSlots_held (s : State) (p : Pool) (v : Slots) : (s.setSlots p v).held = s.held := rfl
@[simp] theorem setSlots_cs (s : State) (p : Pool) (v : Slots) : (s.setSlots p v).cs = s.cs := rfl
@[simp] theorem setSlots_booted (s : State) (p : Pool) (v : Slots) : (s.setSlots p v).booted = s.booted := rfl
@[simp] theorem setSlots_announces (s : State) (p : Pool) (v : Slots) : (s.setSlots p v).announces = s.announces := rfl
@[simp] theorem setSlots_hostPend (s : State) (p : Pool) (v : Slots) : (s.setSlots p v).hostPend = s.hostPend := rfl
@[simp] theorem setSlots_engineOut (s : State) (p : Pool) (v : Slots) : (s.setSlots p v).engineOut = s.engineOut := rfl
@[simp] theorem setSlots_sched (s : State) (p : Pool) (v : Slots) : (s.setSlots p v).sched = s.sched := rfl
@[simp] theorem setSlots_pick (s : State) (p : Pool) (v : Slots) : (s.setSlots p v).pick = s.pick := rfl
@[simp] theorem setSlots_ret (s : State) (p : Pool) (v : Slots) : (s.setSlots p v).ret = s.ret := rfl
@[simp] theorem setSlots_freeCtr (s : State) (p : Pool) (v : Slots) : (s.setSlots p v).freeCtr = s.freeCtr := rfl

@[simp] theorem setSlots_slots_self (s : State) (p : Pool) (v : Slots) : (s.setSlots p v).slots p = v := by cases p <;> rfl
@[simp] theorem setSlots_slots_prx_ptx (s : State) (v : Slots) : (s.setSlots .prx v).slots .ptx = s.slots .ptx := rfl
@[simp] theorem setSlots_slots_ptx_prx (s : State) (v : Slots) : (s.setSlots .ptx v).slots .prx = s.slots .prx := rfl

/-! ### `setInUse` -/

@[simp] theorem setInUse_cfg (s : State) (p : Pool) (i : Nat) (b : Bool) : (s.setInUse p i b).cfg = s.cfg := rfl
@[simp] theorem setInUse_prxTag (s : State) (p : Pool) (i : Nat) (b : Bool) : (s.setInUse p i b).prxTag = s.prxTag := rfl
@[simp] theorem setInUse_mem (s : State) (p : Pool) (i : Nat) (b : Bool) : (s.setInUse p i b).mem = s.mem := rfl
@[simp] theorem setInUse_rxCnt (s : State) (p : Pool) (i : Nat) (b : Bool) : (s.setInUse p i b).rxCnt = s.rxCnt := rfl
@[simp] theorem setInUse_rxTag (s : State) (p : Pool) (i : Nat) (b : Bool) : (s.setInUse p i b).rxTag = s.rxTag := rfl
@[simp] theorem setInUse_rxq (s : State) (p : Pool) (i : Nat) (b : Bool) : (s.setInUse p i b).rxq = s.rxq := rfl
@[simp] theorem setInUse_txq (s : State) (p : Pool) (i : Nat) (b : Bool) : (s.setInUse p i b).txq = s.txq := rfl
@[simp] theorem setInUse_cmdq (s : State) (p : Pool) (i : Nat) (b : Bool) : (s.setInUse p i b).cmdq = s.cmdq := rfl
@[simp] theorem setInUse_txs (s : State) (p : Pool) (i : Nat) (b : Bool) : (s.setInUse p i b).txs = s.txs := rfl
@[simp] theorem setInUse_txCur (s : State) (p : Pool) (i : Nat) (b : Bool) : (s.setInUse p i b).txCur = s.txCur := rfl
@[simp] theorem setInUse_dmaActive (s : State) (p : Pool) (i : Nat) (b : Bool) : (s.setInUse p i b).dmaActive = s.dmaActive := rfl
@[simp] theorem setInUse_dmaIdx (s : State) (p : Pool) (i : Nat) (b : Bool) : (s.setInUse p i b).dmaIdx = s.dmaIdx := rfl
@[simp] theorem setInUse_txWake (s : State) (p : Pool) (i : Nat) (b : Bool) : (s.setInUse p i b).txWake = s.txWake := rfl
@[simp] theorem setInUse_cts (s : State) (p : Pool) (i : Nat) (b : Bool) : (s.setInUse p i b).cts = s.cts := rfl
@[simp] theorem setInUse_ctsFallPend (s : State) (p : Pool) (i : Nat) (b : Bool) : (s.setInUse p i b).ctsFallPend = s.ctsFallPend := rfl
@[simp] theorem setInUse_lineOut (s : State) (p : Pool) (i : Nat) (b : Bool) : (s.setInUse p i b).lineOut = s.lineOut := rfl
@[simp] theorem setInUse_rxIn (s : State) (p : Pool) (i : Nat) (b : Bool) : (s.setInUse p i b).rxIn = s.rxIn := rfl
@[simp] theorem setInUse_cmdOut (s : State) (p : Pool) (i : Nat) (b : Bool) : (s.setInUse p i b).cmdOut = s.cmdOut := rfl
@[simp] theorem setInUse_held (s : State) (p : Pool) (i : Nat) (b : Bool) : (s.setInUse p i b).held = s.held := rfl
@[simp] theorem setInUse_cs (s : State) (p : Pool) (i : Nat) (b : Bool) : (s.setInUse p i b).cs = s.cs := rfl
@[simp] theorem setInUse_booted (s : State) (p : Pool) (i : Nat) (b : Bool) : (s.setInUse p i b).booted = s.booted := rfl
@[simp] theorem setInUse_announces (s : State) (p : Pool) (i : Nat) (b : Bool) : (s.setInUse p i b).announces = s.announces := rfl
@[simp] theorem setInUse_hostPend (s : State) (p : Pool) (i : Nat) (b : Bool) : (s.setInUse p i b).hostPend = s.hostPend := rfl
@[simp] theorem setInUse_engineOut (s : State) (p : Pool) (i : Nat) (b : Bool) : (s.setInUse p i b).engineOut = s.engineOut := rfl
@[simp] theorem setInUse_sched (s : State) (p : Pool) (i : Nat) (b : Bool) : (s.setInUse p i b).sched = s.sched := rfl
@[simp] theorem setInUse_pick (s : State) (p : Pool) (i : Nat) (b : Bool) : (s.setInUse p i b).pick = s.pick := rfl
@[simp] theorem setInUse_ret (s : State) (p : Pool) (i : Nat) (b : Bool) : (s.setInUse p i b).ret = s.ret := rfl
@[simp] theorem setInUse_freeCtr (s : State) (p : Pool) (i : Nat) (b : Bool) : (s.setInUse p i b).freeCtr = s.freeCtr := rfl

/-! ### `setLen` -/

@[simp] theorem setLen_cfg (s : State) (p : Pool) (i n : Nat) : (s.setLen p i n).cfg = s.cfg := rfl
@[simp] theorem setLen_prxTag (s : State) (p : Pool) (i n : Nat) : (s.setLen p i n).prxTag = s.prxTag := rfl
@[simp] theorem setLen_mem (s : State) (p : Pool) (i n : Nat) : (s.setLen p i n).mem = s.mem := rfl
@[simp] theorem setLen_rxCnt (s : State) (p : Pool) (i n : Nat) : (s.setLen p i n).rxCnt = s.rxCnt := rfl
@[simp] theorem setLen_rxTag (s : State) (p : Pool) (i n : Nat) : (s.setLen p i n).rxTag = s.rxTag := rfl
@[simp] theorem setLen_rxq (s : State) (p : Pool) (i n : Nat) : (s.setLen p i n).rxq = s.rxq := rfl
@[simp] theorem setLen_txq (s : State) (p : Pool) (i n : Nat) : (s.setLen p i n).txq = s.txq := rfl
@[simp] theorem setLen_cmdq (s : State) (p : Pool) (i n : Nat) : (s.setLen p i n).cmdq = s.cmdq := rfl
@[simp] theorem setLen_txs (s : State) (p : Pool) (i n : Nat) : (s.setLen p i n).txs = s.txs := rfl
@[simp] theorem setLen_txCur (s : State) (p : Pool) (i n : Nat) : (s.setLen p i n).txCur = s.txCur := rfl
@[simp] theorem setLen_dmaActive (s : State) (p : Pool) (i n : Nat) : (s.setLen p i n).dmaActive = s.dmaActive := rfl
@[simp] theorem setLen_dmaIdx (s : State) (p : Pool) (i n : Nat) : (s.setLen p i n).dmaIdx = s.dmaIdx := rfl
@[simp] theorem setLen_txWake (s : State) (p : Pool) (i n : Nat) : (s.setLen p i n).txWake = s.txWake := rfl
@[simp] theorem setLen_cts (s : State) (p : Pool) (i n : Nat) : (s.setLen p i n).cts = s.cts := rfl
@[simp] theorem setLen_ctsFallPend (s : State) (p : Pool) (i n : Nat) : (s.setLen p i n).ctsFallPend = s.ctsFallPend := rfl
@[simp] theorem setLen_lineOut (s : State) (p : Pool) (i n : Nat) : (s.setLen p i n).lineOut = s.lineOut := rfl
@[simp] theorem setLen_rxIn (s : State) (p : Pool) (i n : Nat) : (s.setLen p i n).rxIn = s.rxIn := rfl
@[simp] theorem setLen_cmdOut (s : State) (p : Pool) (i n : Nat) : (s.setLen p i n).cmdOut = s.cmdOut := rfl
@[simp] theorem setLen_held (s : State) (p : Pool) (i n : Nat) : (s.setLen p i n).held = s.held := rfl
@[simp] theorem setLen_cs (s : State) (p : Pool) (i n : Nat) : (s.setLen p i n).cs = s.cs := rfl
@[simp] theorem setLen_booted (s : State) (p : Pool) (i n : Nat) : (s.setLen p i n).booted = s.booted := rfl
@[simp] theorem setLen_announces (s : State) (p : Pool) (i n : Nat) : (s.setLen p i n).announces = s.announces := rfl
@[simp] theorem setLen_hostPend (s : State) (p : Pool) (i n : Nat) : (s.setLen p i n).hostPend = s.hostPend := rfl
@[simp] theorem setLen_engineOut (s : State) (p : Pool) (i n : Nat) : (s.setLen p i n).engineOut = s.engineOut := rfl
@[simp] theorem setLen_sched (s : State) (p : Pool) (i n : Nat) : (s.setLen p i n).sched = s.sched := rfl
@[simp] theorem setLen_pick (s : State) (p : Pool) (i n : Nat) : (s.setLen p i n).pick = s.pick := rfl
@[simp] theorem setLen_ret (s : State) (p : Pool) (i n : Nat) : (s.setLen p i n).ret = s.ret := rfl
@[simp] theorem setLen_freeCtr (s : State) (p : Pool) (i n : Nat) : (s.setLen p i n).freeCtr = s.freeCtr := rfl

@[simp] theorem setInUse_slots_inUse (s : State) (p : Pool) (i : Nat) (b : Bool) :
    ((s.setInUse p i b).slots p).inUse = (s.slots p).inUse.set i b := by cases p <;> rfl
@[simp] theorem setInUse_slots_len (s : State) (p q : Pool) (i : Nat) (b : Bool) :
    ((s.setInUse p i b).slots q).len = (s.slots q).len := by cases p <;> cases q <;> rfl
@[simp] theorem setLen_slots_inUse (s : State) (p q : Pool) (i n : Nat) :
    ((s.setLen p i n).slots q).inUse = (s.slots q).inUse := by cases p <;> cases q <;> rfl
@[simp] theorem setLen_slots_len (s : State) (p : Pool) (i n : Nat) :
    ((s.setLen p i n).slots p).len = (s.slots p).len.set i n := by cases p <;> rfl
@[simp] theorem setInUse_prx_prx (s : State) (i : Nat) (b : Bool) :
    (s.setInUse .prx i b).prx = { s.prx with inUse := s.prx.inUse.set i b } := rfl
@[simp] theorem setInUse_prx_ptx (s : State) (i : Nat) (b : Bool) : (s.setInUse .prx i b).ptx = s.ptx := rfl
@[simp] theorem setInUse_ptx_ptx (s : State) (i : Nat) (b : Bool) :
    (s.setInUse .ptx i b).ptx = { s.ptx with inUse := s.ptx.inUse.set i b } := rfl
@[simp] theorem setInUse_ptx_prx (s : State) (i : Nat) (b : Bool) : (s.setInUse .ptx i b).prx = s.prx := rfl
@[simp] theorem setLen_prx_prx (s : State) (i n : Nat) :
    (s.setLen .prx i n).prx = { s.prx with len := s.prx.len.set i n } := rfl
@[simp] theorem setLen_prx_ptx (s : State) (i n : Nat) : (s.setLen .prx i n).ptx = s.ptx := rfl
@[simp] theorem setLen_ptx_ptx (s : State) (i n : Nat) :
    (s.setLen .ptx i n).ptx = { s.ptx with len := s.ptx.len.set i n } := rfl
@[simp] theorem setLen_ptx_prx (s : State) (i n : Nat) : (s.setLen .ptx i n).prx = s.prx := rfl

/-! ### `setTag` -/

@[simp] theorem setTag_cfg (s : State) (i : Nat) (t : Tag) : (s.setTag i t).cfg = s.cfg := rfl
@[simp] theorem setTag_prx (s : State) (i : Nat) (t : Tag) : (s.setTag i t).prx = s.prx := rfl
@[simp] theorem setTag_prxTag (s : State) (i : Nat) (t : Tag) : (s.setTag i t).prxTag = s.prxTag.set i t := rfl
@[simp] theorem setTag_ptx (s : State) (i : Nat) (t : Tag) : (s.setTag i t).ptx = s.ptx := rfl
@[simp] theorem setTag_mem (s : State) (i : Nat) (t : Tag) : (s.setTag i t).mem = s.mem := rfl
@[simp] theorem setTag_rxCnt (s : State) (i : Nat) (t : Tag) : (s.setTag i t).rxCnt = s.rxCnt := rfl
@[simp] theorem setTag_rxTag (s : State) (i : Nat) (t : Tag) : (s.setTag i t).rxTag = s.rxTag := rfl
@[simp] theorem setTag_rxq (s : State) (i : Nat) (t : Tag) : (s.setTag i t).rxq = s.rxq := rfl
@[simp] theorem setTag_txq (s : State) (i : Nat) (t : Tag) : (s.setTag i t).txq = s.txq := rfl
@[simp] theorem setTag_cmdq (s : State) (i : Nat) (t : Tag) : (s.setTag i t).cmdq = s.cmdq := rfl
@[simp] theorem setTag_txs (s : State) (i : Nat) (t : Tag) : (s.setTag i t).txs = s.txs := rfl
@[simp] theorem setTag_txCur (s : State) (i : Nat) (t : Tag) : (s.setTag i t).txCur = s.txCur := rfl
@[simp] theorem setTag_dmaActive (s : State) (i : Nat) (t : Tag) : (s.setTag i t).dmaActive = s.dmaActive := rfl
@[simp] theorem setTag_dmaIdx (s : State) (i : Nat) (t : Tag) : (s.setTag i t).dmaIdx = s.dmaIdx := rfl
@[simp] theorem setTag_txWake (s : State) (i : Nat) (t : Tag) : (s.setTag i t).txWake = s.txWake := rfl
@[simp] theorem setTag_cts (s : State) (i : Nat) (t : Tag) : (s.setTag i t).cts = s.cts := rfl
@[simp] theorem setTag_ctsFallPend (s : State) (i : Nat) (t : Tag) : (s.setTag i t).ctsFallPend = s.ctsFallPend := rfl
@[simp] theorem setTag_lineOut (s : State) (i : Nat) (t : Tag) : (s.setTag i t).lineOut = s.lineOut := rfl
@[simp] theorem setTag_rxIn (s : State) (i : Nat) (t : Tag) : (s.setTag i t).rxIn = s.rxIn := rfl
@[simp] theorem setTag_cmdOut (s : State) (i : Nat) (t : Tag) : (s.setTag i t).cmdOut = s.cmdOut := rfl
@[simp] theorem setTag_held (s : State) (i : Nat) (t : Tag) : (s.setTag i t).held = s.held := rfl
@[simp] theorem setTag_cs (s : State) (i : Nat) (t : Tag) : (s.setTag i t).cs = s.cs := rfl
@[simp] theorem setTag_booted (s : State) (i : Nat) (t : Tag) : (s.setTag i t).booted = s.booted := rfl
@[simp] theorem setTag_announces (s : State) (i : Nat) (t : Tag) : (s.setTag i t).announces = s.announces := rfl
@[simp] theorem setTag_hostPend (s : State) (i : Nat) (t : Tag) : (s.setTag i t).hostPend = s.hostPend := rfl
@[simp] theorem setTag_engineOut (s : State) (i : Nat) (t : Tag) : (s.setTag i t).engineOut = s.engineOut := rfl
@[simp] theorem setTag_sched (s : State) (i : Nat) (t : Tag) : (s.setTag i t).sched = s.sched := rfl
@[simp] theorem setTag_pick (s : State) (i : Nat) (t : Tag) : (s.setTag i t).pick = s.pick := rfl
@[simp] theorem setTag_ret (s : State) (i : Nat) (t : Tag) : (s.setTag i t).ret = s.ret := rfl
@[simp] theorem setTag_freeCtr (s : State) (i : Nat) (t : Tag) : (s.setTag i t).freeCtr = s.freeCtr := rfl

/-! ### `clearScratch` -/

@[simp] theorem clearScratch_cfg (s : State) : (clearScratch s).cfg = s.cfg := rfl
@[simp] theorem clearScratch_prx (s : State) : (clearScratch s).prx = s.prx := rfl
@[simp] theorem clearScratch_prxTag (s : State) : (clearScratch s).prxTag = s.prxTag := rfl
@[simp] theorem clearScratch_ptx (s : State) : (clearScratch s).ptx = s.ptx := rfl
@[simp] theorem clearScratch_mem (s : State) : (clearScratch s).mem = s.mem := rfl
@[simp] theorem clearScratch_rxCnt (s : State) : (clearScratch s).rxCnt = 0 := rfl
@[simp] theorem clearScratch_rxTag (s : State) : (clearScratch s).rxTag = .ok := rfl
@[simp] theorem clearScratch_rxq (s : State) : (clearScratch s).rxq = s.rxq := rfl
@[simp] theorem clearScratch_txq (s : State) : (clearScratch s).txq = s.txq := rfl
@[simp] theorem clearScratch_cmdq (s : State) : (clearScratch s).cmdq = s.cmdq := rfl
@[simp] theorem clearScratch_txs (s : State) : (clearScratch s).txs = s.txs := rfl
@[simp] theorem clearScratch_txCur (s : State) : (clearScratch s).txCur = s.txCur := rfl
@[simp] theorem clearScratch_dmaActive (s : State) : (clearScratch s).dmaActive = s.dmaActive := rfl
@[simp] theorem clearScratch_dmaIdx (s : State) : (clearScratch s).dmaIdx = s.dmaIdx := rfl
@[simp] theorem clearScratch_txWake (s : State) : (clearScratch s).txWake = s.txWake := rfl
@[simp] theorem clearScratch_cts (s : State) : (clearScratch s).cts = s.cts := rfl
@[simp] theorem clearScratch_ctsFallPend (s : State) : (clearScratch s).ctsFallPend = s.ctsFallPend := rfl
@[simp] theorem clearScratch_lineOut (s : State) : (clearScratch s).lineOut = s.lineOut := rfl
@[simp] theorem clearScratch_rxIn (s : State) : (clearScratch s).rxIn = s.rxIn := rfl
@[simp] theorem clearScratch_cmdOut (s : State) : (clearScratch s).cmdOut = s.cmdOut := rfl
@[simp] theorem clearScratch_held (s : State) : (clearScratch s).held = s.held := rfl
@[simp] theorem clearScratch_cs (s : State) : (clearScratch s).cs = s.cs := rfl
@[simp] theorem clearScratch_booted (s : State) : (clearScratch s).booted = s.booted := rfl
@[simp] theorem clearScratch_announces (s : State) : (clearScratch s).announces = s.announces := rfl
@[simp] theorem clearScratch_hostPend (s : State) : (clearScratch s).hostPend = s.hostPend := rfl
@[simp] theorem clearScratch_engineOut (s : State) : (clearScratch s).engineOut = s.engineOut := rfl
@[simp] theorem clearScratch_sched (s : State) : (clearScratch s).sched = s.sched := rfl
@[simp] theorem clearScratch_pick (s : State) : (clearScratch s).pick = s.pick := rfl
@[simp] theorem clearScratch_ret (s : State) : (clearScratch s).ret = s.ret := rfl
@[simp] theorem clearScratch_freeCtr (s : State) : (clearScratch s).freeCtr = s.freeCtr := rfl

/-! ### `takeEntry` -/

@[simp] theorem takeEntry_cfg (e : Entry) (rest : List Entry) (s : State) : (takeEntry e rest s).cfg = s.cfg := rfl
@[simp] theorem takeEntry_prx (e : Entry) (rest : List Entry) (s : State) : (takeEntry e rest s).prx = s.prx := rfl
@[simp] theorem takeEntry_prxTag (e : Entry) (rest : List Entry) (s : State) : (takeEntry e rest s).prxTag = s.prxTag := rfl
@[simp] theorem takeEntry_ptx (e : Entry) (rest : List Entry) (s : State) : (takeEntry e rest s).ptx = s.ptx := rfl
@[simp] theorem takeEntry_mem (e : Entry) (rest : List Entry) (s : State) : (takeEntry e rest s).mem = s.mem := rfl
@[simp] theorem takeEntry_rxCnt (e : Entry) (rest : List Entry) (s : State) : (takeEntry e rest s).rxCnt = s.rxCnt := rfl
@[simp] theorem takeEntry_rxTag (e : Entry) (rest : List Entry) (s : State) : (takeEntry e rest s).rxTag = s.rxTag := rfl
@[simp] theorem takeEntry_rxq (e : Entry) (rest : List Entry) (s : State) : (takeEntry e rest s).rxq = s.rxq := rfl
@[simp] theorem takeEntry_txq (e : Entry) (rest : List Entry) (s : State) : (takeEntry e rest s).txq = s.txq := rfl
@[simp] theorem takeEntry_cmdq (e : Entry) (rest : List Entry) (s : State) : (takeEntry e rest s).cmdq = s.cmdq := rfl
@[simp] theorem takeEntry_txs (e : Entry) (rest : List Entry) (s : State) : (takeEntry e rest s).txs = s.txs := rfl
@[simp] theorem takeEntry_txCur (e : Entry) (rest : List Entry) (s : State) : (takeEntry e rest s).txCur = s.txCur := rfl
@[simp] theorem takeEntry_dmaActive (e : Entry) (rest : List Entry) (s : State) : (takeEntry e rest s).dmaActive = s.dmaActive := rfl
@[simp] theorem takeEntry_dmaIdx (e : Entry) (rest : List Entry) (s : State) : (takeEntry e rest s).dmaIdx = s.dmaIdx := rfl
@[simp] theorem takeEntry_txWake (e : Entry) (rest : List Entry) (s : State) : (takeEntry e rest s).txWake = s.txWake := rfl
@[simp] theorem takeEntry_cts (e : Entry) (rest : List Entry) (s : State) : (takeEntry e rest s).cts = s.cts := rfl
@[simp] theorem takeEntry_ctsFallPend (e : Entry) (rest : List Entry) (s : State) : (takeEntry e rest s).ctsFallPend = s.ctsFallPend := rfl
@[simp] theorem takeEntry_lineOut (e : Entry) (rest : List Entry) (s : State) : (takeEntry e rest s).lineOut = s.lineOut := rfl
@[simp] theorem takeEntry_rxIn (e : Entry) (rest : List Entry) (s : State) : (takeEntry e rest s).rxIn = s.rxIn := rfl
@[simp] theorem takeEntry_cmdOut (e : Entry) (rest : List Entry) (s : State) : (takeEntry e rest s).cmdOut = s.cmdOut := rfl
@[simp] theorem takeEntry_held (e : Entry) (rest : List Entry) (s : State) : (takeEntry e rest s).held = s.held := rfl
@[simp] theorem takeEntry_cs (e : Entry) (rest : List Entry) (s : State) : (takeEntry e rest s).cs = s.cs := rfl
@[simp] theorem takeEntry_booted (e : Entry) (rest : List Entry) (s : State) : (takeEntry e rest s).booted = s.booted := rfl
@[simp] theorem takeEntry_announces (e : Entry) (rest : List Entry) (s : State) : (takeEntry e rest s).announces = s.announces := rfl
@[simp] theorem takeEntry_hostPend (e : Entry) (rest : List Entry) (s : State) : (takeEntry e rest s).hostPend = s.hostPend := rfl
@[simp] theorem takeEntry_engineOut (e : Entry) (rest : List Entry) (s : State) : (takeEntry e rest s).engineOut = s.engineOut := rfl
@[simp] theorem takeEntry_sched (e : Entry) (rest : List Entry) (s : State) : (takeEntry e rest s).sched = rest := rfl
@[simp] theorem takeEntry_pick (e : Entry) (rest : List Entry) (s : State) : (takeEntry e rest s).pick = e.pick := rfl
@[simp] theorem takeEntry_ret (e : Entry) (rest : List Entry) (s : State) : (takeEntry e rest s).ret = s.ret := rfl
@[simp] theorem takeEntry_freeCtr (e : Entry) (rest : List Entry) (s : State) : (takeEntry e rest s).freeCtr = s.freeCtr := rfl

/-! ### `slots` -/

@[simp] theorem slots_prx (s : State) : s.slots .prx = s.prx := rfl
@[simp] theorem slots_ptx (s : State) : s.slots .ptx = s.ptx := rfl

end Sys2Proof.Machine
end

