-- ==== Sys2Proof/Laws/Memory.lean ====
section
/-! SUPPORT. Storage: read after write, what a write leaves alone, and that every memory operation keeps the canonical form. -/

namespace Sys2Proof.Machine

/-- A read after a write: the byte written at its address, every other address as before. -/
theorem Memory.read_write (m : Memory) (a b : Nat) (v : Byte) :
    Memory.read (Memory.write m a v) b = if b = a then some v else Memory.read m b := by
  induction m with
  | nil => by_cases h : b = a <;> simp [Memory.write, Memory.read, h, @eq_comm _ a b]
  | cons c m ih =>
    simp only [Memory.write]
    split
    · by_cases h : b = a <;> simp [Memory.read, h, @eq_comm _ a b]
    · split
      · rename_i _ h
        by_cases hb : b = a
        · simp [Memory.read, hb]
        · simp [Memory.read, hb, ← h, Ne.symm hb]
      · simp only [Memory.read, ih]
        by_cases hc : c.1 = b
        · have : ¬ b = a := by omega
          simp [hc, this]
        · simp [hc]

/-- A read after writing a sequence of bytes. -/
theorem Memory.read_writeN (bs : List Byte) : ∀ (m : Memory) (a b : Nat),
    Memory.read (Memory.writeN m a bs) b =
      if a ≤ b ∧ b < a + bs.length then bs[b - a]? else Memory.read m b := by
  induction bs with
  | nil =>
    intro m a b
    have : ¬ (a ≤ b ∧ b < a + ([] : List Byte).length) := by simp
    simp only [if_neg this, Memory.writeN]
  | cons v bs ih =>
    intro m a b
    simp only [Memory.writeN, ih, Memory.read_write, List.length_cons]
    rcases Nat.lt_trichotomy b a with h | h | h
    · have h1 : ¬ (a + 1 ≤ b ∧ b < a + 1 + bs.length) := by omega
      have h2 : ¬ (a ≤ b ∧ b < a + (bs.length + 1)) := by omega
      have h3 : ¬ b = a := by omega
      simp only [if_neg h1, if_neg h2, if_neg h3]
    · subst h
      have h1 : ¬ (b + 1 ≤ b ∧ b < b + 1 + bs.length) := by omega
      have h2 : b ≤ b ∧ b < b + (bs.length + 1) := by omega
      simp only [if_neg h1, if_pos h2, if_true, Nat.sub_self, List.getElem?_cons_zero]
    · have h3 : ¬ b = a := by omega
      obtain ⟨k, rfl⟩ : ∃ k, b = a + 1 + k := ⟨b - (a + 1), by omega⟩
      have e1 : a + 1 + k - (a + 1) = k := by omega
      have e2 : a + 1 + k - a = k + 1 := by omega
      by_cases h4 : k < bs.length
      · have h1 : a + 1 ≤ a + 1 + k ∧ a + 1 + k < a + 1 + bs.length := by omega
        have h2 : a ≤ a + 1 + k ∧ a + 1 + k < a + (bs.length + 1) := by omega
        simp only [if_pos h1, if_pos h2, e1, e2, List.getElem?_cons_succ]
      · have h1 : ¬ (a + 1 ≤ a + 1 + k ∧ a + 1 + k < a + 1 + bs.length) := by omega
        have h2 : ¬ (a ≤ a + 1 + k ∧ a + 1 + k < a + (bs.length + 1)) := by omega
        simp only [if_neg h1, if_neg h2, if_neg h3]

/-- Reading `n` bytes succeeds exactly when each byte has a value, and gives those values. -/
theorem Memory.readN_eq_some (m : Memory) : ∀ (n a : Nat) (bs : List Byte),
    Memory.readN m a n = some bs ↔ bs.length = n ∧ ∀ k, k < n → Memory.read m (a + k) = bs[k]? := by
  intro n
  induction n with
  | zero =>
    intro a bs
    simp only [Memory.readN, Option.some.injEq]
    constructor
    · rintro rfl; exact ⟨rfl, fun k hk => absurd hk (Nat.not_lt_zero k)⟩
    · rintro ⟨h, _⟩; exact (List.length_eq_zero_iff.mp h).symm
  | succ n ih =>
    intro a bs
    constructor
    · intro h
      simp only [Memory.readN] at h
      split at h
      · rename_i b bs' hb hbs
        obtain rfl : b :: bs' = bs := by simpa using h
        obtain ⟨hl, hr⟩ := (ih (a + 1) bs').mp hbs
        refine ⟨by simp [hl], ?_⟩
        intro k hk
        cases k with
        | zero => simpa using hb
        | succ k =>
          have := hr k (by omega)
          rw [show a + (k + 1) = a + 1 + k by omega, this]
          simp
      · cases h
    · rintro ⟨hl, hr⟩
      cases bs with
      | nil => simp at hl
      | cons b bs' =>
        have h0 := hr 0 (by omega)
        have h1 : Memory.readN m (a + 1) n = some bs' := by
          refine (ih (a + 1) bs').mpr ⟨by simpa using hl, ?_⟩
          intro k hk
          have := hr (k + 1) (by omega)
          rw [show a + 1 + k = a + (k + 1) by omega, this]
          simp
        simp only [Nat.add_zero, List.getElem?_cons_zero] at h0
        simp [Memory.readN, h0, h1]

/-- Reading back a sequence just written gives it. -/
theorem Memory.readN_writeN_self (m : Memory) (a : Nat) (bs : List Byte) :
    Memory.readN (Memory.writeN m a bs) a bs.length = some bs := by
  refine (Memory.readN_eq_some _ _ _ _).mpr ⟨rfl, ?_⟩
  intro k hk
  have : a ≤ a + k ∧ a + k < a + bs.length := by omega
  simp only [Memory.read_writeN, if_pos this, Nat.add_sub_cancel_left]

/-- Reading bytes that a write does not touch gives what it gave. -/
theorem Memory.readN_writeN_of_disjoint (m : Memory) (a b n : Nat) (bs : List Byte)
    (h : b + n ≤ a ∨ a + bs.length ≤ b) :
    Memory.readN (Memory.writeN m a bs) b n = Memory.readN m b n := by
  apply Option.ext
  intro x
  simp only [Memory.readN_eq_some, and_congr_right_iff]
  intro hx
  constructor <;> intro hr k hk <;> have hk' := hr k hk <;>
    · have : ¬ (a ≤ b + k ∧ b + k < a + bs.length) := by omega
      simpa only [Memory.read_writeN, if_neg this] using hk'

/-- A byte that has a value still has one after a write. -/
theorem Memory.isSome_read_writeN (m : Memory) (a b : Nat) (bs : List Byte) (h : (Memory.read m b).isSome = true) :
    (Memory.read (Memory.writeN m a bs) b).isSome = true := by
  rw [Memory.read_writeN]
  split
  · rename_i hb
    rw [List.getElem?_eq_getElem (by omega)]
    rfl
  · exact h

/-! ### The canonical form -/

/-- The canonical form, as a relation between neighbours and the rest. -/
theorem Memory.wf_cons (c : Host.Cell) (m : Memory) :
    Memory.wf (c :: m) = true ↔ (∀ d ∈ m.head?, c.1 < d.1) ∧ Memory.wf m = true := by
  cases m with
  | nil => simp [Memory.wf]
  | cons d m => simp [Memory.wf]

/-- The first address of a memory after a write. -/
theorem Memory.head_write (m : Memory) (a : Nat) (v : Byte) :
    ∀ d ∈ (Memory.write m a v).head?, d.1 = a ∨ d ∈ m.head? := by
  cases m with
  | nil => simp [Memory.write]
  | cons c m =>
    simp only [Memory.write]
    split
    · simp
    · split <;> simp

/-- A write keeps the canonical form. -/
theorem Memory.wf_write (m : Memory) (a : Nat) (v : Byte) (h : Memory.wf m = true) :
    Memory.wf (Memory.write m a v) = true := by
  induction m with
  | nil => rfl
  | cons c m ih =>
    obtain ⟨hc, hm⟩ := (Memory.wf_cons c m).mp h
    simp only [Memory.write]
    split
    · rename_i hlt
      exact (Memory.wf_cons _ _).mpr ⟨by simpa using hlt, h⟩
    · split
      · rename_i _ he
        exact (Memory.wf_cons _ _).mpr ⟨by simpa [he] using hc, hm⟩
      · refine (Memory.wf_cons _ _).mpr ⟨?_, ih hm⟩
        intro d hd
        rcases Memory.head_write m a v d hd with h1 | h1
        · omega
        · exact hc d h1

/-- Writing a sequence keeps the canonical form. -/
theorem Memory.wf_writeN (bs : List Byte) : ∀ (m : Memory) (a : Nat), Memory.wf m = true →
    Memory.wf (Memory.writeN m a bs) = true := by
  induction bs with
  | nil => intro m a h; exact h
  | cons b bs ih => intro m a h; exact ih _ _ (Memory.wf_write m a b h)

/-- Every address after a write is an old one or the one written. -/
theorem Memory.mem_write (m : Memory) (a : Nat) (v : Byte) :
    ∀ d ∈ Memory.write m a v, d.1 = a ∨ d ∈ m := by
  induction m with
  | nil => simp [Memory.write]
  | cons c m ih =>
    intro d hd
    simp only [Memory.write] at hd
    split at hd
    · rcases List.mem_cons.mp hd with rfl | h
      · exact .inl rfl
      · exact .inr h
    · split at hd
      · rcases List.mem_cons.mp hd with rfl | h
        · exact .inl rfl
        · exact .inr (List.mem_cons_of_mem _ h)
      · rcases List.mem_cons.mp hd with rfl | h
        · exact .inr List.mem_cons_self
        · rcases ih d h with h | h
          · exact .inl h
          · exact .inr (List.mem_cons_of_mem _ h)

/-- The memory right after reset has the canonical form. -/
theorem Memory.wf_reset : Memory.wf State.reset.mem = true := rfl

end Sys2Proof.Machine
end

