-- ==== Sys2Proof/Laws/Ops.lean ====
section
/-! SUPPORT. One lemma for each shared operation that says all it can do: the provers cite these instead of unfolding. -/

namespace Sys2Proof.Machine

/-- Membership in the free indices. -/
theorem mem_freeIndices (inUse : List Bool) (n i : Nat) :
    i ∈ freeIndices inUse n ↔ i < n ∧ inUse[i]? = some false := by
  simp [freeIndices]

/-- A chosen index is free and in range. -/
theorem chooseFree_some {inUse : List Bool} {n pick i : Nat} (h : chooseFree inUse n pick = some i) :
    i < n ∧ inUse[i]? = some false :=
  (mem_freeIndices inUse n i).mp (List.mem_of_getElem? h)

/-- No index is chosen exactly when none is free. -/
theorem chooseFree_none (inUse : List Bool) (n pick : Nat) :
    chooseFree inUse n pick = none ↔ ∀ i, i < n → inUse[i]? ≠ some false := by
  unfold chooseFree
  rw [List.getElem?_eq_none_iff]
  constructor
  · intro h i hi hf
    have hpos : 0 < (freeIndices inUse n).length :=
      List.length_pos_of_mem ((mem_freeIndices inUse n i).mpr ⟨hi, hf⟩)
    exact absurd (Nat.mod_lt pick hpos) (by omega)
  · intro h
    have : freeIndices inUse n = [] := by
      apply List.eq_nil_iff_forall_not_mem.mpr
      intro i hi
      obtain ⟨h1, h2⟩ := (mem_freeIndices inUse n i).mp hi
      exact h i h1 h2
    simp [this]

/-- Every free index is chosen by some value of `pick`. -/
theorem chooseFree_surjective (inUse : List Bool) (n i : Nat) (hi : i < n) (hf : inUse[i]? = some false) :
    ∃ pick, chooseFree inUse n pick = some i := by
  obtain ⟨k, hk, he⟩ := List.getElem_of_mem ((mem_freeIndices inUse n i).mpr ⟨hi, hf⟩)
  refine ⟨k, ?_⟩
  unfold chooseFree
  rw [Nat.mod_eq_of_lt hk, List.getElem?_eq_getElem hk, he]

/-- A claim takes a free slot and changes only its bit. -/
theorem claim_some {s t : State} {p : Pool} {i : Nat} (h : claim s p = some (i, t)) :
    i < s.cfg.slotCount p ∧ (s.slots p).inUse[i]? = some false ∧ t = s.setInUse p i true := by
  unfold claim at h
  split at h
  · rename_i j hj
    obtain ⟨rfl, rfl⟩ : j = i ∧ s.setInUse p j true = t := by simpa using h
    exact ⟨(chooseFree_some hj).1, (chooseFree_some hj).2, rfl⟩
  · cases h

/-- A claim fails exactly on exhaustion. -/
theorem claim_none (s : State) (p : Pool) :
    claim s p = none ↔ ∀ i, i < s.cfg.slotCount p → (s.slots p).inUse[i]? ≠ some false := by
  rw [← chooseFree_none _ _ s.pick]
  unfold claim
  split <;> simp_all

/-- What a release does. -/
theorem release_cases (s : State) (p : Pool) (h : Handle) :
    (recognised s p h = true ∧ release s p h = s.setInUse p h.idx false)
      ∨ (recognised s p h = false ∧ release s p h = s) := by
  unfold release
  split
  · rename_i hr; exact .inl ⟨hr, rfl⟩
  · rename_i hr; exact .inr ⟨by simpa using hr, rfl⟩

/-- What reading a slot gives. -/
theorem slotRead_ok {s : State} {p : Pool} {i off n : Nat} {bs : List Byte} (h : slotRead s p i off n = .ok bs) :
    i < s.cfg.slotCount p ∧ off + n ≤ s.cfg.slotBytes
      ∧ Memory.readN s.mem (slotBase s.cfg p i + off) n = some bs := by
  unfold slotRead at h
  split at h
  · rename_i hr
    split at h
    · rename_i bs' hb
      obtain rfl : bs' = bs := by simpa using h
      exact ⟨hr.1, hr.2, hb⟩
    · cases h
  · cases h

/-- What writing a slot does. -/
theorem slotWrite_ok {s t : State} {p : Pool} {i : Nat} {bs : List Byte} (h : slotWrite s p i bs = .ok t) :
    i < s.cfg.slotCount p ∧ bs.length ≤ s.cfg.slotBytes
      ∧ t = { s with mem := Memory.writeN s.mem (slotBase s.cfg p i) bs } := by
  unfold slotWrite at h
  split at h
  · rename_i hr
    exact ⟨hr.1, hr.2, by simpa using h.symm⟩
  · cases h

/-- What `orFault` answers with a next state. -/
theorem orFault_next {α : Type} {x : Except Fault α} {k : α → Out} {t : State} (h : orFault x k = .next t) :
    ∃ a, x = .ok a ∧ k a = .next t := by
  cases x with
  | ok a => exact ⟨a, rfl, h⟩
  | error e => cases h

/-- Everything a delivery can do: it holds, or it pops the head run, delivers the result and frees the slot. -/
theorem deliver_cases {r : Option TypedCommand} {s t : State} (h : deliver r s = .next t) :
    ((s.rxq = [] ∨ (r ≠ none ∧ hasRoom s.cmdq s.cfg.cmdqCap = false)) ∧ t = { s with ret := .held })
      ∨ ∃ i rest, s.rxq = i :: rest ∧ (r = none ∨ hasRoom s.cmdq s.cfg.cmdqCap = true)
          ∧ t = { release { s with rxq := rest, cmdq := s.cmdq ++ r.toList } .prx ⟨.prx, i⟩ with ret := .done } := by
  unfold deliver at h
  split at h
  · rename_i hq
    exact .inl ⟨.inl hq, by simpa [hold, finish] using h.symm⟩
  · rename_i i rest hq
    split at h
    · rename_i hc
      exact .inr ⟨i, rest, hq, hc, by simpa [finish] using h.symm⟩
    · rename_i hc
      refine .inl ⟨.inr ?_, by simpa [hold, finish] using h.symm⟩
      simpa using hc

/-- Everything a frame end can do: queue the run in a claimed slot, or discard it; the scratch registers are cleared. -/
theorem frameEnd_cases {tag : Tag} {s t : State} (h : frameEnd tag s = .ok t) :
    (∃ i bs, i < s.cfg.nRx ∧ s.prx.inUse[i]? = some false ∧ hasRoom s.rxq s.cfg.rxqCap = true
        ∧ scratchBytes s = .ok bs ∧ bs.length ≤ s.cfg.slotBytes
        ∧ t = clearScratch { ((({ s.setInUse .prx i true with
              mem := Memory.writeN s.mem (slotBase s.cfg .prx i) bs }).setLen .prx i s.rxCnt).setTag i tag) with
              rxq := s.rxq ++ [i] })
      ∨ (∃ i, i < s.cfg.nRx ∧ s.prx.inUse[i]? = some false ∧ hasRoom s.rxq s.cfg.rxqCap = false
          ∧ t = clearScratch (release (s.setInUse .prx i true) .prx ⟨.prx, i⟩))
      ∨ ((∀ i, i < s.cfg.nRx → s.prx.inUse[i]? ≠ some false) ∧ t = clearScratch s) := by
  unfold frameEnd at h
  split at h
  · rename_i i s' hc
    obtain ⟨h1, h2, rfl⟩ := claim_some hc
    split at h
    · rename_i hroom
      left
      unfold queueRun at h
      split at h
      · rename_i bs hbs
        split at h
        · rename_i s'' hw
          obtain ⟨_, hlen, rfl⟩ := slotWrite_ok hw
          refine ⟨i, bs, h1, h2, hroom, hbs, hlen, ?_⟩
          simpa [Except.map] using h.symm
        · simp [Except.map] at h
      · simp [Except.map] at h
    · rename_i hroom
      refine .inr (.inl ⟨i, h1, h2, by simpa using hroom, ?_⟩)
      simpa using h.symm
  · rename_i hc
    refine .inr (.inr ⟨(claim_none s .prx).mp hc, ?_⟩)
    simpa using h.symm

/-- Everything a send can do: reject, hold, or queue the image in a claimed slot. -/
theorem txSend_cases {src dst : Byte} {p : List Byte} {s t : State} (h : txSend src dst p s = .next t) :
    (framePopulate s.cfg src dst p = none ∧ t = { s with ret := .rejected })
      ∨ (framePopulate s.cfg src dst p ≠ none
          ∧ (hasRoom s.txq s.cfg.txqCap = false ∨ ∀ i, i < s.cfg.nTx → s.ptx.inUse[i]? ≠ some false)
          ∧ t = { s with ret := .held })
      ∨ ∃ img i, framePopulate s.cfg src dst p = some img ∧ hasRoom s.txq s.cfg.txqCap = true
          ∧ i < s.cfg.nTx ∧ s.ptx.inUse[i]? = some false ∧ img.length ≤ s.cfg.slotBytes
          ∧ t = { ({ s.setInUse .ptx i true with
              mem := Memory.writeN s.mem (slotBase s.cfg .ptx i) img }).setLen .ptx i img.length with
              txq := s.txq ++ [i], ret := .queued } := by
  unfold txSend at h
  split at h
  · rename_i hp
    exact .inl ⟨hp, by simpa [finish] using h.symm⟩
  · rename_i img hp
    split at h
    · rename_i hroom
      split at h
      · rename_i i s' hc
        obtain ⟨h1, h2, rfl⟩ := claim_some hc
        obtain ⟨u, hu, hk⟩ := orFault_next h
        obtain ⟨_, hlen, rfl⟩ := slotWrite_ok hu
        refine .inr (.inr ⟨img, i, hp, hroom, h1, h2, hlen, ?_⟩)
        simpa [finish] using hk.symm
      · rename_i hc
        refine .inr (.inl ⟨by simp [hp], .inr ((claim_none s .ptx).mp hc), ?_⟩)
        simpa [hold, finish] using h.symm
    · rename_i hroom
      refine .inr (.inl ⟨by simp [hp], .inl (by simpa using hroom), ?_⟩)
      simpa [hold, finish] using h.symm

/-- Everything a host's send can do: what the send did, then the rest of the step unless it held. -/
theorem hostSend_cases {st : TypedStatus} {s t : State} {k : State → State} (h : hostSend st s k = .next t) :
    ∃ u, sendStatus st s = .next u ∧ ((u.ret = .held ∧ t = u) ∨ (u.ret ≠ .held ∧ t = k u)) := by
  unfold hostSend at h
  split at h
  · rename_i u hu
    refine ⟨u, hu, ?_⟩
    split at h
    · rename_i hr; exact .inl ⟨hr, by simpa using h.symm⟩
    · rename_i hr; exact .inr ⟨hr, by simpa using h.symm⟩
  · cases h
  · cases h

/-- Everything a step can do. -/
theorem step_cases {s t : State} (h : step s = .next t) :
    s.cfg.wf = true ∧ ((s.sched = [] ∧ t = s)
      ∨ ∃ e rest, s.sched = e :: rest ∧ perform e.act (takeEntry e rest s) = .next t) := by
  unfold step at h
  split at h
  · rename_i hc
    refine ⟨hc, ?_⟩
    split at h
    · rename_i hs; exact .inl ⟨hs, by simpa using h.symm⟩
    · rename_i e rest hs; exact .inr ⟨e, rest, hs, h⟩
  · cases h

/-- Everything performing an instruction can do: its meaning, or a hold of a sub-step or of a message that is not the one fetched. -/
theorem issue_cases {i : Instr} {s t : State} (h : issue i s = .next t) :
    (issuable i s = true ∧ exec i s = .next t) ∨ (issuable i s = false ∧ t = { s with ret := .held }) := by
  unfold issue at h
  split at h
  · rename_i hi; exact .inl ⟨hi, h⟩
  · rename_i hi; exact .inr ⟨by simpa using hi, by simpa [hold, finish] using h.symm⟩

/-- What the schedule may perform by itself: a message that is fetched, or an operation that is no sub-step. -/
theorem issuable_iff (i : Instr) (s : State) :
    issuable i s = true ↔ (isInbound i = true ∧ fetchMessage s = some i) ∨ (isInbound i = false ∧ isSubStep i = false) := by
  unfold issuable
  split <;> simp_all

end Sys2Proof.Machine
end

