-- ==== Sys2Proof/Certificates/Slice0/Obligations.lean ====
section
/-! DEFINITION. The statements for the provers. Each docstring names the rule of spec/ a statement formalises, or, where a clause
rests on a choice of the spec's authors ([decision], [derived], [from general knowledge]) or of the model, says so. In every statement
`ret` is the model's own register for a returned value (log 5) and `Holds` its reading of a hold (log 4). -/

open Sys2Proof Sys2Proof.Machine

/-! ### The frame-pool allocator (spec/40_frame_pool.md) -/

/-- `POOL_ALLOC(P)` and `POOL_TRY_ALLOC(P)` with a free slot: some free slot's bit is set, its handle is returned and the caller holds
it; nothing else changes. On an exhausted pool the first holds and the second answers `none`; neither changes anything. That the
choice among the free slots is open is the spec's choice D29 (log 3), the split into two operations D5 and D12; the ghost `held` is
log 21. -/
def Obligations.PoolAllocationClaimsOneFreeSlot : Prop :=
  ∀ (s : State) (p : Pool),
    ((∃ i, i < s.cfg.slotCount p ∧ (s.slots p).inUse[i]? = some false) →
      ∃ i, i < s.cfg.slotCount p ∧ (s.slots p).inUse[i]? = some false
        ∧ Claims s (exec (.poolAlloc p) s) p i (.handle ⟨p, i⟩)
        ∧ Claims s (exec (.poolTryAlloc p) s) p i (.tryHandle (some ⟨p, i⟩)))
    ∧ ((∀ i, i < s.cfg.slotCount p → (s.slots p).inUse[i]? ≠ some false) →
      Holds s (exec (.poolAlloc p) s) ∧ Returns s (exec (.poolTryAlloc p) s) (.tryHandle none))

/-- "choose any such `i`": for every free slot some value of the free field `pick` makes `POOL_ALLOC` and `POOL_TRY_ALLOC` return it
(R131; D29; log 3). -/
def Obligations.EveryFreeSlotCanBeAllocated : Prop :=
  ∀ (s : State) (p : Pool) (i : Nat), i < s.cfg.slotCount p → (s.slots p).inUse[i]? = some false →
    ∃ k t u, exec (.poolAlloc p) { s with pick := k } = .next t ∧ t.ret = .handle ⟨p, i⟩
      ∧ exec (.poolTryAlloc p) { s with pick := k } = .next u ∧ u.ret = .tryHandle (some ⟨p, i⟩)

/-- `POOL_FREE(P, h)` (R133): a handle of this pool has its `in_use` bit cleared, whatever it held; any other value is a no-op. The
caller no longer holds the handle (the ghost `held`, log 21). -/
def Obligations.PoolFreeClearsOnlyARecognisedSlot : Prop :=
  ∀ (s : State) (p q : Pool) (i : Nat),
    (i < s.cfg.nRx → exec (.poolFree .prx ⟨.prx, i⟩) s = .next { s with
        prx := { s.prx with inUse := s.prx.inUse.set i false }
        held := s.held.erase ⟨.prx, i⟩
        ret := .done })
    ∧ (i < s.cfg.nTx → exec (.poolFree .ptx ⟨.ptx, i⟩) s = .next { s with
        ptx := { s.ptx with inUse := s.ptx.inUse.set i false }
        held := s.held.erase ⟨.ptx, i⟩
        ret := .done })
    ∧ (q ≠ p ∨ s.cfg.slotCount p ≤ i → Returns s (exec (.poolFree p ⟨q, i⟩) s) .done)

/-- Pool exclusivity, one allocation at a time: in a state of the run invariant, the handle an allocation returns is live nowhere
else: not in a queue, not in flight, not held by a caller (R134 is the spec's derivation; the ghost `held` is log 21). -/
def Obligations.AllocatedHandleWasLiveNowhere : Prop :=
  ∀ (s t : State) (p : Pool) (i : Nat), Inv s →
    ((exec (.poolAlloc p) s = .next t ∧ t.ret = .handle ⟨p, i⟩)
      ∨ (exec (.poolTryAlloc p) s = .next t ∧ t.ret = .tryHandle (some ⟨p, i⟩))) →
    i ∉ owned s p ∧ i ∈ owned t p ∧ i < s.cfg.slotCount p

/-! ### The receive path (spec/41_rx_framer.md) -/

/-- `RX_BYTE(b)`: with room the byte is stored at `rx_buf[rx_cnt]` and counted; with the scratch buffer full it is discarded and the
tag becomes `BufferOverrun` (the reading of an overrun is the spec's choice D6). The event enters `rx_in`. -/
def Obligations.RxByteStoresOrMarksTheOverrun : Prop :=
  ∀ (b : Byte) (s : State),
    (s.rxCnt < s.cfg.rxCap →
      ∃ m, exec (.rxByte b) s = .next { s with
            mem := m, rxCnt := s.rxCnt + 1, rxIn := s.rxIn ++ [.rxByte b], ret := .done }
        ∧ StoresBytes s.mem m (rxBufBase s.cfg + s.rxCnt) [b])
    ∧ (s.cfg.rxCap ≤ s.rxCnt →
      exec (.rxByte b) s = .next { s with rxTag := .bufferOverrun, rxIn := s.rxIn ++ [.rxByte b], ret := .done })

/-- `FRAME_END(t)` (R156): with a free slot and room in `rxq` some free slot is claimed, gets the accumulated bytes, their count and the
tag, and is queued; with no free slot, or with `rxq` full, the run is discarded; in every case the scratch registers are cleared and
nothing else changes (the non-blocking claim and the discard are the spec's choice D5). -/
def Obligations.FrameEndQueuesOrDiscardsTheRun : Prop :=
  ∀ (tag : Tag) (s : State) (bs : List Byte),
    (s.rxCnt ≤ s.cfg.rxCap → s.cfg.rxCap ≤ s.cfg.slotBytes →
      Memory.readN s.mem (rxBufBase s.cfg) s.rxCnt = some bs → s.rxq.length < s.cfg.rxqCap →
      (∃ i, i < s.cfg.nRx ∧ s.prx.inUse[i]? = some false) →
      ∃ i m, i < s.cfg.nRx ∧ s.prx.inUse[i]? = some false
        ∧ exec (.frameEnd tag) s = .next { s with
            prx := ⟨s.prx.inUse.set i true, s.prx.len.set i s.rxCnt⟩
            prxTag := s.prxTag.set i tag
            mem := m
            rxq := s.rxq ++ [i]
            rxCnt := 0
            rxTag := .ok
            ret := .done }
        ∧ StoresBytes s.mem m (slotBase s.cfg .prx i) bs)
    ∧ ((∀ i, i < s.cfg.nRx → s.prx.inUse[i]? ≠ some false) ∨ s.cfg.rxqCap ≤ s.rxq.length →
      exec (.frameEnd tag) s = .next { s with rxCnt := 0, rxTag := .ok, ret := .done })

/-- `RX_IDLE` and `RX_PARITY_ERR`: an idle with nothing accumulated makes no frame; otherwise the step is `FRAME_END` of the gathered
tag (idle) or of `ParityError` (parity error), and the event enters `rx_in`. Both always complete while the scratch bytes are
written (the spec's choices D7, D8; R153, R154). -/
def Obligations.IdleAndParityErrorEndTheFrame : Prop :=
  ∀ s : State, s.rxCnt ≤ s.cfg.rxCap → s.cfg.rxCap ≤ s.cfg.slotBytes →
    written s.mem (rxBufBase s.cfg) s.rxCnt →
    (s.rxCnt = 0 ∧ s.rxTag = .ok →
      exec .rxIdle s = .next { s with rxIn := s.rxIn ++ [.rxIdle], ret := .done })
    ∧ (0 < s.rxCnt ∨ s.rxTag ≠ .ok →
      ∃ t, exec (.frameEnd s.rxTag) s = .next t ∧ exec .rxIdle s = .next { t with rxIn := s.rxIn ++ [.rxIdle] })
    ∧ (∃ t, exec (.frameEnd .parityError) s = .next t
      ∧ exec .rxParityErr s = .next { t with rxIn := s.rxIn ++ [.rxParityErr] })

/-- An interrupt-context operation of the receive side never holds and never stops: in a state of the run invariant each completes,
whatever the pools and queues hold (R327; `done` is the model's returned value, log 5). -/
def Obligations.ReceiveInterruptsNeverHold : Prop :=
  ∀ (s : State) (i : Instr), Inv s →
    (∃ b, i = .rxByte b) ∨ i = .rxParityErr ∨ i = .rxIdle ∨ (∃ tag, i = .frameEnd tag) →
    ∃ t, exec i s = .next t ∧ t.ret = .done ∧ t.cmdq = s.cmdq ∧ t.txq = s.txq ∧ t.ptx = s.ptx

/-- `XOR8` (R160): 0 on the empty sequence, one more byte is exclusive-ored in, the order of the bytes does not matter, appending the
result gives 0; it writes no state. -/
def Obligations.Xor8IsTheExclusiveOrOfAllBytes : Prop :=
  ∀ (bs cs : List Byte) (b : Byte) (s : State),
    Returns s (exec (.xor8 []) s) (.byte 0)
    ∧ ∃ x, Returns s (exec (.xor8 bs) s) (.byte x)
      ∧ Returns s (exec (.xor8 (bs ++ [b])) s) (.byte (x ^^^ b))
      ∧ Returns s (exec (.xor8 (bs ++ [x])) s) (.byte 0)
      ∧ (bs.Perm cs → exec (.xor8 cs) s = exec (.xor8 bs) s)

/-- `FRAME_VALIDATE(f)` (R161): at least 4 bytes, XOR 0, and under `LEN_CHECK = strict` (the spec's choice D4) a `length` byte equal to
`n - 2`. -/
def Obligations.FrameValidateTestsCountXorAndLength : Prop :=
  ∀ (s : State) (f : List Byte), s.cfg.wf = true →
    ∃ v : Bool, Returns s (exec (.frameValidate f) s) (.bool v)
      ∧ (v = true ↔ 4 ≤ f.length ∧ f.foldl (fun x y => x ^^^ y) 0 = 0
          ∧ (s.cfg.lenCheck = .none ∨ (f.getD 1 0).toNat = f.length - 2))

/-- `FRAME_PARSE(f)` of a valid run (R162): the fields at indices 0, 1, 2 and n-1 and the payload between; nothing else changes. -/
def Obligations.FrameParseReadsTheFields : Prop :=
  ∀ (s : State) (src len dst ck : Byte) (p : List Byte),
    frameValidate s.cfg (src :: len :: dst :: (p ++ [ck])) = true →
    Returns s (exec (.frameParse (src :: len :: dst :: (p ++ [ck]))) s) (.frame ⟨src, len, dst, p, ck⟩)

/-- Every single-byte corruption of a valid frame is detected (R163 is the spec's derivation). -/
def Obligations.SingleByteCorruptionIsDetected : Prop :=
  ∀ (c : Cfg) (f : List Byte) (k : Nat) (b : Byte), frameValidate c f = true → k < f.length → f[k]? ≠ some b →
    frameValidate c (f.set k b) = false

/-- Two valid frames with no idle between them are one run that is dropped under `strict` (R155 is the spec's derivation); its XOR is
still 0. -/
def Obligations.BackToBackFramesAreDropped : Prop :=
  ∀ (c : Cfg) (f g : List Byte), c.wf = true → c.lenCheck = .strict → frameValidate c f = true →
    frameValidate c g = true →
    frameValidate c (f ++ g) = false ∧ cmdDecode c (f ++ g) = none ∧ xor8 (f ++ g) = 0

/-- `RXT_STEP`: on an empty `rxq` it holds. A run whose tag is not `Ok`, or whose bytes are no valid frame, is dropped: its slot is
freed and nothing is delivered, even with `cmdq` full (R166, R311 class (a)). Of a run tagged `Ok` the command `CMD_DECODE` gives, if
any, is delivered and the slot freed; with a command and `cmdq` full it holds (R165; the task that does it and the hold are the
spec's choices D10, D11). -/
def Obligations.RxtStepDropsDeliversOrHolds : Prop :=
  ∀ (s : State) (h n : Nat) (rest : List Nat) (tag : Tag) (f : List Byte),
    (s.rxq = [] → Holds s (exec .rxtStep s))
    ∧ (s.cfg.wf = true → s.rxq = h :: rest → h < s.cfg.nRx → s.prxTag[h]? = some tag → s.prx.len[h]? = some n →
      n ≤ s.cfg.slotBytes → Memory.readN s.mem (slotBase s.cfg .prx h) n = some f →
      (tag ≠ .ok ∨ frameValidate s.cfg f = false → Delivers s (exec .rxtStep s) h rest [])
      ∧ (tag = .ok → cmdDecodeSpec s.cfg f = none ∨ s.cmdq.length < s.cfg.cmdqCap →
        Delivers s (exec .rxtStep s) h rest (cmdDecodeSpec s.cfg f).toList)
      ∧ (tag = .ok → cmdDecodeSpec s.cfg f ≠ none → s.cfg.cmdqCap ≤ s.cmdq.length → Holds s (exec .rxtStep s)))

/-- `CMD_TAKE` (R167): the oldest command is returned, removed and recorded in `cmd_out`; on an empty `cmdq` it holds. -/
def Obligations.CmdTakeTakesTheOldestCommand : Prop :=
  ∀ (s : State) (c : TypedCommand) (rest : List TypedCommand),
    (s.cmdq = c :: rest →
      exec .cmdTake s = .next { s with cmdq := rest, cmdOut := s.cmdOut ++ [c], ret := .command c })
    ∧ (s.cmdq = [] → Holds s (exec .cmdTake s))

/-! ### The message decoder (spec/43_cmd_decoder.md) -/

/-- `CMD_DECODE(f)` is the decision tree of R220 with the table of R108, for every byte run and every well-formed configuration (the
order of the tests, the length check and what `AltSeek` gives are the spec's choices D22, D4, D21). -/
def Obligations.CmdDecodeIsTheDecisionTree : Prop :=
  ∀ (s : State) (f : List Byte), s.cfg.wf = true →
    Returns s (exec (.cmdDecode f) s) (.decoded (cmdDecodeSpec s.cfg f))

/-- An invalid run gives none (R221), and so does an echo of our own transmission, whatever its destination and payload (R222). -/
def Obligations.InvalidRunsAndEchoesDecodeToNone : Prop :=
  ∀ (s : State) (f : List Byte), frameValidate s.cfg f = false ∨ f.getD 0 0 = s.cfg.selfAddr →
    Returns s (exec (.cmdDecode f) s) (.decoded none)

/-- `TRAFFIC` and `POLL` (R223, R224): every valid run from another device to another device is `Traffic`, whatever its length and
payload; a poll's image from any other device to any address of ours is `Poll`; executing them at the head of `rxq` delivers it
(that a message is executed by the RX task from the head of `rxq` is the model's reading, log 13). -/
def Obligations.TrafficAndPollDecodeAndDeliver : Prop :=
  ∀ (s : State) (src dst : Byte) (p f : List Byte) (h : Nat) (rest : List Nat), s.cfg.wf = true → s.rxq = h :: rest →
    h < s.cfg.nRx → s.cmdq.length < s.cfg.cmdqCap →
    (frameValidate s.cfg f = true → f.getD 0 0 ≠ s.cfg.selfAddr → s.cfg.ours (f.getD 2 0) = false →
      Returns s (exec (.cmdDecode f) s) (.decoded (some .traffic)))
    ∧ (Delivers s (exec (.traffic src dst p) s) h rest [.traffic])
    ∧ (src ≠ s.cfg.selfAddr → s.cfg.ours dst = true →
      Returns s (exec (.cmdDecode [src, 0x03, dst, 0x01, src ^^^ 0x03 ^^^ dst ^^^ 0x01]) s) (.decoded (some .poll)))
    ∧ (Delivers s (exec (.poll src dst) s) h rest [.poll])

/-- The four sub-commands without an argument (R226 to R229): their encoding, their result for every data byte, and its delivery
(by the RX task from the head of `rxq`, log 13). -/
def Obligations.PlainCommandsDecodeAndDeliver : Prop :=
  ∀ (s : State) (src dst data : Byte) (h : Nat) (rest : List Nat), s.cfg.wf = true → src ≠ s.cfg.selfAddr →
    s.cfg.ours dst = true → s.rxq = h :: rest → h < s.cfg.nRx → s.cmdq.length < s.cfg.cmdqCap →
    let img (sub : Byte) : List Byte := [src, 0x05, dst, 0x38, sub, data, src ^^^ 0x05 ^^^ dst ^^^ 0x38 ^^^ sub ^^^ data]
    let r (k : TypedCommand) : Option TypedCommand := if data = 0 ∨ data = 1 then some k else none
    (Returns s (exec (.cmdDecode (img s.cfg.subStatus)) s) (.decoded (r .status))
      ∧ Delivers s (exec (.cdcStatus src dst data) s) h rest (r .status).toList)
    ∧ (Returns s (exec (.cmdDecode (img s.cfg.subStop)) s) (.decoded (r .stop))
      ∧ Delivers s (exec (.cdcStop src dst data) s) h rest (r .stop).toList)
    ∧ (Returns s (exec (.cmdDecode (img s.cfg.subPause)) s) (.decoded (r .pause))
      ∧ Delivers s (exec (.cdcPause src dst data) s) h rest (r .pause).toList)
    ∧ (Returns s (exec (.cmdDecode (img s.cfg.subPlay)) s) (.decoded (r .play))
      ∧ Delivers s (exec (.cdcPlay src dst data) s) h rest (r .play).toList)

/-- The two sub-commands with a direction (R230, R231): their encoding, their result for every data byte, and its delivery. The
direction of a data byte is a field of the configuration, a bijection of 0 and 1. That
a message is executed from the head of `rxq` is log 13. -/
def Obligations.DirectionCommandsDecodeAndDeliver : Prop :=
  ∀ (s : State) (src dst data : Byte) (h : Nat) (rest : List Nat), s.cfg.wf = true → src ≠ s.cfg.selfAddr →
    s.cfg.ours dst = true → s.rxq = h :: rest → h < s.cfg.nRx → s.cmdq.length < s.cfg.cmdqCap →
    let img (sub : Byte) : List Byte := [src, 0x05, dst, 0x38, sub, data, src ^^^ 0x05 ^^^ dst ^^^ 0x38 ^^^ sub ^^^ data]
    let dir (at0 : Direction) : Direction := if data = 0 then at0 else if at0 = .fwd then .rev else .fwd
    let r (k : TypedCommand) : Option TypedCommand := if data = 0 ∨ data = 1 then some k else none
    (Returns s (exec (.cmdDecode (img s.cfg.subFastplay)) s) (.decoded (r (.fastPlay (dir s.cfg.dirFastplay0))))
      ∧ Delivers s (exec (.cdcFastplay src dst data) s) h rest (r (.fastPlay (dir s.cfg.dirFastplay0))).toList)
    ∧ (Returns s (exec (.cmdDecode (img s.cfg.subSeek)) s) (.decoded (r (.seek (dir s.cfg.dirSeek0))))
      ∧ Delivers s (exec (.cdcSeek src dst data) s) h rest (r (.seek (dir s.cfg.dirSeek0))).toList)

/-- `CDC_CHANGEDISC` (R233): the disc for data 1..6, none for 0 and from 7 on, delivered (from the head of
`rxq`, log 13). -/
def Obligations.ChangeDiscDecodesOneToSix : Prop :=
  ∀ (s : State) (src dst data : Byte) (h : Nat) (rest : List Nat), s.cfg.wf = true → src ≠ s.cfg.selfAddr →
    s.cfg.ours dst = true → s.rxq = h :: rest → h < s.cfg.nRx → s.cmdq.length < s.cfg.cmdqCap →
    let img : List Byte :=
      [src, 0x05, dst, 0x38, s.cfg.subChangedisc, data, src ^^^ 0x05 ^^^ dst ^^^ 0x38 ^^^ s.cfg.subChangedisc ^^^ data]
    (∀ d : Disc, data.toNat = d.toNat →
      Returns s (exec (.cmdDecode img) s) (.decoded (some (.changeDisc d)))
      ∧ Delivers s (exec (.cdcChangedisc src dst data) s) h rest [.changeDisc d])
    ∧ (data.toNat = 0 ∨ 7 ≤ data.toNat →
      Returns s (exec (.cmdDecode img) s) (.decoded none)
      ∧ Delivers s (exec (.cdcChangedisc src dst data) s) h rest [])

/-- `CDC_ALTSEEK`, `CDC_SCANDISC` and `CDC_RANDOMIZE` (R232, R234, R235); that `AltSeek` gives `Seek` is the spec's choice D21, that 1
is `On` its choice D20; executed from the head of `rxq` (log 13). -/
def Obligations.AltSeekAndSwitchCommandsDecodeAndDeliver : Prop :=
  ∀ (s : State) (src dst data : Byte) (h : Nat) (rest : List Nat), s.cfg.wf = true → src ≠ s.cfg.selfAddr →
    s.cfg.ours dst = true → s.rxq = h :: rest → h < s.cfg.nRx → s.cmdq.length < s.cfg.cmdqCap →
    let img (sub : Byte) : List Byte := [src, 0x05, dst, 0x38, sub, data, src ^^^ 0x05 ^^^ dst ^^^ 0x38 ^^^ sub ^^^ data]
    let dir (at0 : Direction) : Direction := if data = 0 then at0 else if at0 = .fwd then .rev else .fwd
    let sw : OnOff := if data = 0 then .off else .on
    let r (k : TypedCommand) : Option TypedCommand := if data = 0 ∨ data = 1 then some k else none
    (Returns s (exec (.cmdDecode (img s.cfg.subAltseek)) s) (.decoded (r (.seek (dir s.cfg.dirAltseek0))))
      ∧ Delivers s (exec (.cdcAltseek src dst data) s) h rest (r (.seek (dir s.cfg.dirAltseek0))).toList)
    ∧ (Returns s (exec (.cmdDecode (img s.cfg.subScandisc)) s) (.decoded (r (.scanDisc sw)))
      ∧ Delivers s (exec (.cdcScandisc src dst data) s) h rest (r (.scanDisc sw)).toList)
    ∧ (Returns s (exec (.cmdDecode (img s.cfg.subRandomize)) s) (.decoded (r (.randomize sw)))
      ∧ Delivers s (exec (.cdcRandomize src dst data) s) h rest (r (.randomize sw)).toList)

/-- A step runs the decoded instruction: when the RX task is scheduled and the run at the head of `rxq` is tagged `Ok` and decodes to
`i`, the step is `exec i` of the state with the entry taken; a scheduled operation that is neither an inbound message nor a
sub-step is run as it is; a scheduled inbound message runs when it is the one fetched (the model's reading, log 2, 13); a sub-step,
`FRAME_END` or `POOL_TRY_ALLOC`, and a message that is not the one fetched hold: R156 calls the first "not an event of its own", R132
says that only `FRAME_END` uses the second (log 25). -/
def Obligations.StepRunsTheDecodedInstruction : Prop :=
  ∀ (s : State) (k h n : Nat) (rest : List Entry) (q : List Nat) (f : List Byte) (i : Instr), s.cfg.wf = true →
    (s.sched = ⟨k, .op .rxtStep⟩ :: rest → s.rxq = h :: q → s.prxTag[h]? = some .ok → s.prx.len[h]? = some n →
      h < s.cfg.nRx → n ≤ s.cfg.slotBytes → Memory.readN s.mem (slotBase s.cfg .prx h) n = some f →
      decode s.cfg f = .ok i →
      step s = exec i { s with sched := rest, pick := k })
    ∧ (s.sched = ⟨k, .op i⟩ :: rest → (isInbound i = false ∧ isSubStep i = false) ∨ fetchMessage s = some i →
      step s = exec i { s with sched := rest, pick := k })
    ∧ (s.sched = ⟨k, .op i⟩ :: rest → isSubStep i = true ∨ (isInbound i = true ∧ fetchMessage s ≠ some i) →
      Holds { s with sched := rest, pick := k } (step s))

/-! ### Encodings -/

/-- Decode and encode agree on every well-formed inbound message, with every operand, for every well-formed configuration. -/
def Obligations.DecodeOfEncodedMessageIsTheMessage : Prop :=
  ∀ (c : Cfg) (i : Instr) (f : List Byte), c.wf = true → isInbound i = true → WellFormed c i = true →
    encode c i = some f → decode c f = .ok i

/-- Under `strict` no bit of an image is dropped: a run of bytes that decodes to a message is that message's encoding. -/
def Obligations.EncodeOfDecodedRunIsTheRun : Prop :=
  ∀ (c : Cfg) (i : Instr) (f : List Byte), c.wf = true → c.lenCheck = .strict → f.length ≤ 33 →
    decode c f = .ok i → encode c i = some f ∧ isInbound i = true ∧ WellFormed c i = true

/-- The payload of every outbound message under the default templates reads back as the message, with its track folded and the common
fields its template does not carry at 0 (`wireForm`), and it is sent to `RADIO_ADDR`, an announcement or a poll response to `BCAST_HI`,
whatever those addresses are. The templates are the spec's general knowledge (G4, G5; log 9, 16, 33). -/
def Obligations.OutboundPayloadReadsBack : Prop :=
  ∀ (c : Cfg) (i : Instr) (st : TypedStatus), c.template = Templates.default → statusOf i = some st →
    decodeStatus c (statusEncode c st).2 = some (wireForm c i)
    ∧ (statusEncode c st).1 = if st.variant = .announce ∨ st.variant = .pollResponse then c.bcastHi else c.radioAddr

/-- Words written out bit by bit from the spec's encodings decode to the instructions they stand for (R105, R106, R119). The bytes of
the dialect are the default values of R108 and R112, the spec's general knowledge (log 9). The addresses in the results, 0x68 and 0x18,
are no part of a word (R119): they come from the frame the model puts a word into (DESIGN CHOICE, log 15). That an outbound word is read
by its template, and a field it does not carry as 0, is the model's choice too (DESIGN CHOICE, log 16). -/
def Obligations.WrittenOutWordsDecode : Prop :=
  decodeTableWord 8 0b00000001 = some (.poll 0x68 0x18)
  ∧ decodeTableWord 24 0b001110000000001100000000 = some (.cdcPlay 0x68 0x18 0x00)
  ∧ decodeTableWord 24 0b001110000000101000000001 = some (.cdcAltseek 0x68 0x18 0x01)
  ∧ decodeTableWord 24 0b001110000000011000000110 = some (.cdcChangedisc 0x68 0x18 0x06)
  ∧ decodeTableWord 16 0b0000001000000001 = some (.announce ⟨0, 0, 0, 0⟩)
  ∧ decodeTableWord 16 0b0000001000000000 = some (.pollResponse ⟨0, 0, 0, 0⟩)
  ∧ decodeTableWord 64 0x39020900BF000342 = some (.stPlaying ⟨0x09, 0xBF, 0x03, 42⟩)
  ∧ decodeTableWord 24 0b001110000000100100000000 = none

/-! ### The transmit path (spec/42_tx_transmitter.md) -/

/-- `FRAME_POPULATE` (R181): reject on an empty payload or more than 20 bytes, else the image; no state is written. -/
def Obligations.FramePopulateBuildsTheImage : Prop :=
  ∀ (s : State) (src dst : Byte) (p : List Byte), s.cfg.wf = true →
    (p.length = 0 ∨ 20 < p.length → Returns s (exec (.framePopulate src dst p) s) (.image none))
    ∧ (1 ≤ p.length ∧ p.length ≤ 20 →
      Returns s (exec (.framePopulate src dst p) s) (.image (some (imageSpec src dst p))))

/-- What the framing encoder builds is a valid frame under both settings of `LEN_CHECK`, and parses back to its arguments (R182 is in
part the spec's derivation). -/
def Obligations.PopulatedFramesAreValidAndParseBack : Prop :=
  ∀ (c : Cfg) (src dst : Byte) (p f : List Byte), c.wf = true → framePopulate c src dst p = some f →
    frameValidate c f = true ∧ xor8 f = 0 ∧ (parseFrame f).source = src ∧ (parseFrame f).destination = dst
      ∧ (parseFrame f).payload = p ∧ f.length ≤ 24

/-- `TX_SEND` (R183): a payload outside 1..20 bytes is rejected with no state change, whatever the pool holds (the order of the checks
is the spec's choice D13); with a free slot and room the frame is queued; otherwise the call holds. -/
def Obligations.TxSendRejectsQueuesOrHolds : Prop :=
  ∀ (s : State) (src dst : Byte) (p : List Byte), s.cfg.wf = true →
    (p.length = 0 ∨ 20 < p.length → Returns s (exec (.txSend src dst p) s) .rejected)
    ∧ (1 ≤ p.length ∧ p.length ≤ 20 → CanQueue s →
      QueuesFrame s (exec (.txSend src dst p) s) (imageSpec src dst p))
    ∧ (1 ≤ p.length ∧ p.length ≤ 20 → ¬ CanQueue s → Holds s (exec (.txSend src dst p) s))

/-- `TXT_START` (R185): with `txs = IDLE`, CTS asserted, no pending fall and a frame pending, the head of `txq` is taken and its
transfer begins; with any of these missing it holds (that a pending fall bars the start is the spec's choice D14). -/
def Obligations.TxtStartBeginsTheHeadFrame : Prop :=
  ∀ (s : State) (h : Nat) (rest : List Nat),
    (s.txs = .idle ∧ s.txq = h :: rest ∧ s.cts = true ∧ s.ctsFallPend = false →
      exec .txtStart s = .next { s with
        txCur := h, txq := rest, dmaIdx := 0, dmaActive := true, txWake := .none, txs := .sending
        lineOut := s.lineOut ++ [.start h], ret := .done })
    ∧ (s.txs ≠ .idle ∨ s.txq = [] ∨ s.cts = false ∨ s.ctsFallPend = true → Holds s (exec .txtStart s))

/-- `DMA_BYTE` (R186): the byte at `dma_idx` of the in-flight slot goes on the wire, whatever `cts` is; with no transfer or nothing
left it holds (the byte grain is the spec's choice D14). -/
def Obligations.DmaByteMovesTheNextByte : Prop :=
  ∀ (s : State) (n : Nat) (b : Byte),
    (s.dmaActive = true → s.ptx.len[s.txCur]? = some n → s.dmaIdx < n → s.txCur < s.cfg.nTx → n ≤ s.cfg.slotBytes →
      Memory.read s.mem (slotBase s.cfg .ptx s.txCur + s.dmaIdx) = some b →
      exec .dmaByte s = .next { s with lineOut := s.lineOut ++ [.byte b], dmaIdx := s.dmaIdx + 1, ret := .done })
    ∧ (s.dmaActive = false ∨ (s.ptx.len[s.txCur]? = some n ∧ n ≤ s.dmaIdx) → Holds s (exec .dmaByte s))

/-- `DMA_COMPLETE` (R187): with every byte emitted the transfer ends and `DONE` is posted unless a reason already is (the spec's choice
D15); otherwise it holds. -/
def Obligations.DmaCompletePostsDone : Prop :=
  ∀ (s : State) (n : Nat), s.ptx.len[s.txCur]? = some n →
    (s.dmaActive = true ∧ s.dmaIdx = n →
      exec .dmaComplete s = .next { s with
        dmaActive := false, txWake := if s.txWake = .none then .done else s.txWake
        lineOut := s.lineOut ++ [.complete], ret := .done })
    ∧ (s.dmaActive = false ∨ s.dmaIdx ≠ n → Holds s (exec .dmaComplete s))

/-- `CTS_FALL` and `CTS_RISE` (R188, R189): the level changes; a fall during a transfer, and only that, raises the arbiter's interrupt;
a rise does not cancel it. Each is an edge, enabled at the other level only. -/
def Obligations.CtsEdgesMoveTheLevel : Prop :=
  ∀ s : State,
    (s.cts = true →
      exec .ctsFall s = .next { s with
        cts := false, ctsFallPend := if s.dmaActive = true then true else s.ctsFallPend
        rxIn := s.rxIn ++ [.ctsFall], ret := .done }
      ∧ Holds s (exec .ctsRise s))
    ∧ (s.cts = false →
      exec .ctsRise s = .next { s with cts := true, rxIn := s.rxIn ++ [.ctsRise], ret := .done }
      ∧ Holds s (exec .ctsFall s))

/-- `ARB_STEP` (R190): with a pending fall, an active transfer is aborted and `COLLISION` posted, a finished one is left alone (the
spec's choice D15); with none pending it holds. -/
def Obligations.ArbStepAbortsOnlyAnActiveTransfer : Prop :=
  ∀ s : State,
    (s.ctsFallPend = true ∧ s.dmaActive = true →
      exec .arbStep s = .next { s with
        ctsFallPend := false, dmaActive := false, txWake := .collision
        lineOut := s.lineOut ++ [.abort s.dmaIdx], ret := .done })
    ∧ (s.ctsFallPend = true ∧ s.dmaActive = false → exec .arbStep s = .next { s with ctsFallPend := false, ret := .done })
    ∧ (s.ctsFallPend = false → Holds s (exec .arbStep s))

/-- `TXT_WAKE_COLL` (R191): the collided frame goes to the FRONT of the pending queue, its slot and bytes untouched, and the sequencer
is idle at once (no gap and no retry limit are the spec's choice D16); otherwise it holds. With `txq` full, which needs a
`TXQ_CAP` below `N_TX`, R11 defines no push; that the step then holds is the model's choice (DESIGN CHOICE, log 19). -/
def Obligations.TxtWakeCollRequeuesAtTheFront : Prop :=
  ∀ s : State,
    (s.txs = .sending ∧ s.txWake = .collision ∧ s.txq.length < s.cfg.txqCap →
      exec .txtWakeColl s = .next { s with txq := s.txCur :: s.txq, txWake := .none, txs := .idle, ret := .done })
    ∧ (s.txs ≠ .sending ∨ s.txWake ≠ .collision → Holds s (exec .txtWakeColl s))
    ∧ (s.txs = .sending ∧ s.txWake = .collision ∧ s.cfg.txqCap ≤ s.txq.length →
      Holds s (exec .txtWakeColl s))

/-- `TXT_WAKE_DONE` (R192): the sent frame's slot is freed and the gap begins; otherwise it holds. It is the only operation of the
block that frees a PTX slot; beside it only a client's `POOL_FREE` does. -/
def Obligations.TxtWakeDoneFreesTheSlot : Prop :=
  ∀ s : State,
    (s.txs = .sending ∧ s.txWake = .done → s.txCur < s.cfg.nTx →
      exec .txtWakeDone s = .next { s with
        ptx := { s.ptx with inUse := s.ptx.inUse.set s.txCur false }, txWake := .none, txs := .gap, ret := .done })
    ∧ (s.txs ≠ .sending ∨ s.txWake ≠ .done → Holds s (exec .txtWakeDone s))
    ∧ ∀ (i : Instr) (t : State) (h : Nat), exec i s = .next t → s.ptx.inUse[h]? = some true →
        t.ptx.inUse[h]? = some false → i = .txtWakeDone ∨ ∃ k, i = .poolFree .ptx k

/-- `TXT_GAP_END` (R193): from `GAP` to `IDLE` and nothing else; from any other state it holds. In the gap no transfer starts; and in
every infinite run that is weakly fair towards `TXT` the gap ends (R322, R370: the order and weak fairness are all that the model keeps
of the timers). A run and what counts as one operation for fairness are the model's (DESIGN CHOICE, log 2, 34). -/
def Obligations.TxtGapEndReturnsToIdle : Prop :=
  ∀ s : State,
    (s.txs = .gap → exec .txtGapEnd s = .next { s with txs := .idle, ret := .done } ∧ Holds s (exec .txtStart s))
    ∧ (s.txs ≠ .gap → Holds s (exec .txtGapEnd s))
    ∧ ∀ (st : Nat → State) (en : Nat → Entry) (n : Nat), InfiniteRun st en → WeaklyFair (fun g => g = .txt) st en →
        (st n).txs = .gap → ∃ m, n < m ∧ (st m).txs = .idle

/-! ### The message encoder (spec/44_status_encoder.md) -/

/-- `TRACK_FOLD` (R250): by the configured fold, always 1..99. The choice between the two folds is the spec's D35. `BCD8` (R251): tens
digit in bits 7:4, units digit in bits 3:0 (the nibble order is general knowledge, G6; log 9); on 1..99 never `0x00`. -/
def Obligations.TrackConversionFoldsAndPacks : Prop :=
  ∀ (s : State) (t : Byte) (m : Fin 100),
    (Returns s (exec (.trackFold t) s) (.number (foldSpec s.cfg t)) ∧ 1 ≤ foldSpec s.cfg t ∧ foldSpec s.cfg t ≤ 99)
    ∧ ∃ b : Byte, Returns s (exec (.bcd8 m) s) (.byte b)
      ∧ b.toNat / 16 = m.val / 10 ∧ b.toNat % 16 = m.val % 10 ∧ (1 ≤ m.val → b ≠ 0)

/-- `STATUS_ENCODE` (R252): the template's destination and its items with the fields substituted; for `CheckingForDisc` the mask and
disc take the places of bitmap and current disc and `last_failed` selects the `ERR` byte (the item vocabulary is the spec's choice
D23). The byte of `TRACK` has the tens digit in bits 7:4, which is general knowledge (G6; PRESUMED, log 9). -/
def Obligations.StatusEncodeSubstitutesTheTemplate : Prop :=
  ∀ (s : State) (cm : Common),
    (∀ (v : Variant) (t : Template), s.cfg.template.get v.case = t → (∀ m d x, v ≠ .checkingForDisc m d x) →
      Returns s (exec (.statusEncode ⟨v, cm⟩) s)
        (.encoded (s.cfg.destByte t.dest) (substituted s.cfg cm.discBitmap cm.currentDisc false cm t.items)))
    ∧ (∀ (mask : Byte) (d : Disc) (failed : Bool), Returns s (exec (.statusEncode ⟨.checkingForDisc mask d failed, cm⟩) s)
        (.encoded (s.cfg.destByte s.cfg.template.checkingForDisc.dest)
          (substituted s.cfg mask (BitVec.ofNat 8 d.toNat) failed cm s.cfg.template.checkingForDisc.items)))

/-- The eleven outbound messages (R254 to R264): with a slot and room each queues the frame of its own template, from us to the
template's destination, with the four fields substituted; `ST_CHECKINGFORDISC` with the mask in the place of the bitmap, the disc in
the place of the current disc and the `ERR` byte by `last_failed` (the item vocabulary is the spec's choice D23, the BCD nibble order
general knowledge G6; a message row is a status sent, log 14). -/
def Obligations.OutboundMessagesQueueTheirTemplates : Prop :=
  ∀ (s : State) (cm : Common) (mask : Byte) (d : Disc) (failed : Bool), s.cfg.wf = true → CanQueue s →
    let img (t : Template) : List Byte :=
      imageSpec s.cfg.selfAddr (s.cfg.destByte t.dest) (substituted s.cfg cm.discBitmap cm.currentDisc false cm t.items)
    QueuesFrame s (exec (.stStopped cm) s) (img s.cfg.template.stopped)
    ∧ QueuesFrame s (exec (.stPaused cm) s) (img s.cfg.template.paused)
    ∧ QueuesFrame s (exec (.stPlaying cm) s) (img s.cfg.template.playing)
    ∧ QueuesFrame s (exec (.stFastplayingF cm) s) (img s.cfg.template.fastPlayingF)
    ∧ QueuesFrame s (exec (.stFastplayingR cm) s) (img s.cfg.template.fastPlayingR)
    ∧ QueuesFrame s (exec (.stSeekingF cm) s) (img s.cfg.template.seekingF)
    ∧ QueuesFrame s (exec (.stSeekingR cm) s) (img s.cfg.template.seekingR)
    ∧ QueuesFrame s (exec (.stLoadingdisc cm) s) (img s.cfg.template.loadingDisc)
    ∧ QueuesFrame s (exec (.stCheckingfordisc cm mask d failed) s)
        (imageSpec s.cfg.selfAddr (s.cfg.destByte s.cfg.template.checkingForDisc.dest)
          (substituted s.cfg mask (BitVec.ofNat 8 d.toNat) failed cm s.cfg.template.checkingForDisc.items))
    ∧ QueuesFrame s (exec (.announce cm) s) (img s.cfg.template.announce)
    ∧ QueuesFrame s (exec (.pollResponse cm) s) (img s.cfg.template.pollResponse)

/-- `SEND_STATUS` (R253): it is `TX_SEND` of our address and the encoded pair; for a well-formed configuration it is never rejected:
it queues the frame or holds (that it runs in the caller's task is the spec's choice D10). -/
def Obligations.SendStatusQueuesOrHolds : Prop :=
  ∀ (s : State) (st : TypedStatus), s.cfg.wf = true →
    (∀ dest payload, Returns s (exec (.statusEncode st) s) (.encoded dest payload) →
      exec (.sendStatus st) s = exec (.txSend s.cfg.selfAddr dest payload) s)
    ∧ (CanQueue s → ∃ img, QueuesFrame s (exec (.sendStatus st) s) img ∧ frameValidate s.cfg img = true)
    ∧ (¬ CanQueue s → Holds s (exec (.sendStatus st) s))

/-- The block never acts on its own status: the image of every status is a valid frame that its own decoder drops (R266 is the spec's
derivation). -/
def Obligations.OwnStatusesAreNeverDecoded : Prop :=
  ∀ (c : Cfg) (st : TypedStatus), c.wf = true →
    ∃ f, statusImage c st = some f ∧ frameValidate c f = true ∧ cmdDecode c f = none

/-! ### The whole machine -/

/-- The state after reset, for every configuration and CTS level: the table of R50 with the host's `ChangerState` of R281 (the values
are the spec's choices D17; nothing is claimed of the elements R50 leaves unspecified but that no byte of storage has a value, log 6).
Then no operation of `RXA`, `RXT`, `TXT`, `DMA` or `ARB` is enabled (R352), the two sub-steps of `RXA` when scheduled by themselves
included (log 25); and in every quiescent state only input events and operations of the host, or of no agent of the block (the pure
functions, and the pool operations of a caller), are enabled (R337, the spec's choice D31). -/
def Obligations.ResetLeavesTheTableOfValues : Prop :=
  ∀ (c : Cfg) (cts0 : Bool),
    let s := State.resetWith c cts0
    s.cfg = c ∧ (∀ i, i < c.nRx → s.prx.inUse[i]? = some false) ∧ (∀ i, i < c.nTx → s.ptx.inUse[i]? = some false)
    ∧ (∀ a, Memory.read s.mem a = none) ∧ s.rxCnt = 0 ∧ s.rxTag = .ok ∧ s.rxq = [] ∧ s.txq = [] ∧ s.cmdq = []
    ∧ s.txs = .idle ∧ s.dmaActive = false ∧ s.dmaIdx = 0 ∧ s.txWake = .none ∧ s.cts = cts0 ∧ s.ctsFallPend = false
    ∧ s.lineOut = [] ∧ s.rxIn = [] ∧ s.cmdOut = [] ∧ Quiescent s
    ∧ s.cs.lifecycle = .notConnected ∧ s.cs.disc = .noMagazine ∧ s.cs.play = .stopped ∧ s.cs.discBitmap = 0 ∧ s.cs.currentDisc = 0
    ∧ s.cs.currentTrack = 0 ∧ s.cs.audioState = c.audioStopped
    ∧ (∀ i : Instr, i = .rxtStep ∨ i = .txtStart ∨ i = .dmaByte ∨ i = .dmaComplete ∨ i = .arbStep ∨ i = .txtWakeColl
        ∨ i = .txtWakeDone ∨ i = .txtGapEnd → Holds s (exec i s))
    ∧ (∀ i : Instr, (∃ tag, i = .frameEnd tag) ∨ (∃ p, i = .poolTryAlloc p) → Holds s (issue i s))
    ∧ (∀ (u : State) (i : Instr), Quiescent u → Enabled (.op i) u → isEvent i = true ∨ agentOf i = some .host ∨ agentOf i = none)

/-- The run invariant holds after reset, for every well-formed configuration and CTS level (the invariant is the model's). -/
def Obligations.ResetMeetsTheRunInvariant : Prop :=
  ∀ (c : Cfg) (cts0 : Bool), c.wf = true → Inv (State.resetWith c cts0)

/-- Every step keeps the run invariant, if a scheduled `POOL_FREE` frees only what its caller holds (R26, R134, R360; the invariant
is the model's). It says that every slot has exactly one owner, every capacity is respected, the memory keeps its canonical form and
whatever will be read has been written. -/
def Obligations.EveryStepKeepsTheRunInvariant : Prop :=
  ∀ s t : State, Inv s → NextDisciplined s → step s = .next t → Inv t

/-- From a state of the run invariant no step faults and none is refused (R335: no rule of the spec reaches a fault). Discipline is not
needed for the step itself. -/
def Obligations.NoStepFromTheRunInvariantStops : Prop :=
  ∀ s : State, Inv s → ∃ t, step s = .next t

/-- With `RXQ_CAP >= N_RX` the queue is never full when a slot is free, and with `TXQ_CAP >= N_TX` neither push on `txq` finds it full
(R30 and R31 are in part the spec's derivations). -/
def Obligations.FreeSlotMeansRoomInItsQueue : Prop :=
  ∀ s : State, Inv s →
    (s.cfg.nRx ≤ s.cfg.rxqCap → (∃ i, i < s.cfg.nRx ∧ s.prx.inUse[i]? = some false) → s.rxq.length < s.cfg.rxqCap)
    ∧ (s.cfg.nTx ≤ s.cfg.txqCap →
      ((∃ i, i < s.cfg.nTx ∧ s.ptx.inUse[i]? = some false) → s.txq.length < s.cfg.txqCap)
      ∧ (s.txs = .sending → s.txq.length < s.cfg.txqCap))

/-- Order preservation (R195, R72 as the spec derives them): what is still to be sent whole, the frame in flight and then `txq`,
changes only by losing its head exactly when that frame's `Complete` is recorded, or by gaining frames at its back; a collision
changes nothing. -/
def Obligations.PendingTransmissionsKeepTheirOrder : Prop :=
  ∀ s t : State, Inv s → step s = .next t →
    (t.lineOut = s.lineOut ++ [.complete] ∧ pendingTx s = s.txCur :: pendingTx t)
    ∨ (t.lineOut ≠ s.lineOut ++ [.complete] ∧ (pendingTx t = pendingTx s ∨ ∃ i, pendingTx t = pendingTx s ++ [i]))

/-- The transitions of the sequencer (R194 as the spec derives them): no step moves `txs` but by these four. -/
def Obligations.SequencerMovesOnlyByTheFourTransitions : Prop :=
  ∀ s t : State, step s = .next t → t.txs ≠ s.txs →
    (s.txs = .idle ∧ t.txs = .sending ∧ s.cts = true ∧ s.ctsFallPend = false ∧ s.txq = t.txCur :: t.txq)
    ∨ (s.txs = .sending ∧ s.txWake = .done ∧ t.txs = .gap)
    ∨ (s.txs = .sending ∧ s.txWake = .collision ∧ t.txs = .idle ∧ t.txq = s.txCur :: s.txq)
    ∨ (s.txs = .gap ∧ t.txs = .idle)

/-- No step writes the configuration, and the three histories of the spec, `line_out`, `rx_in` and `cmd_out`, only grow (R43, R45). That
`engineOut` only grows is a clause about the model's own history of commands forwarded to the playback engine (DESIGN CHOICE, log 22),
which R45 does not list. -/
def Obligations.ConfigurationIsFixedAndHistoriesGrow : Prop :=
  ∀ s t : State, step s = .next t →
    t.cfg = s.cfg ∧ s.lineOut <+: t.lineOut ∧ s.rxIn <+: t.rxIn ∧ s.cmdOut <+: t.cmdOut ∧ s.engineOut <+: t.engineOut

/-- What interrupt context may not touch (R330): `cmdq`, `txq`, `txs`, the PTX pool, PTX memory, the `ChangerState`. -/
def Obligations.InterruptContextLeavesTaskStateAlone : Prop :=
  ∀ (i : Instr) (s t : State),
    (∃ b, i = .rxByte b) ∨ i = .rxParityErr ∨ i = .rxIdle ∨ (∃ tag, i = .frameEnd tag) ∨ i = .dmaComplete ∨ i = .arbStep →
    exec i s = .next t →
    t.cmdq = s.cmdq ∧ t.txq = s.txq ∧ t.txs = s.txs ∧ t.ptx = s.ptx ∧ t.cs = s.cs ∧ t.hostPend = s.hostPend
    ∧ ∀ a, slotBase s.cfg .ptx 0 ≤ a → a < rxBufBase s.cfg → Memory.read t.mem a = Memory.read s.mem a

/-- A queued or in-flight TX slot is never written: while a slot is in flight or in `txq`, no step changes a byte of it or its length
(R362, R75). -/
def Obligations.QueuedTransmitSlotsAreNeverWritten : Prop :=
  ∀ (s t : State) (h k : Nat), Inv s → step s = .next t → h ∈ inFlight s ++ s.txq → k < s.cfg.slotBytes →
    Memory.read t.mem (slotBase s.cfg .ptx h + k) = Memory.read s.mem (slotBase s.cfg .ptx h + k)
    ∧ t.ptx.len[h]? = s.ptx.len[h]?

/-- A whole transmission: from an idle sequencer with CTS asserted and no pending fall, the head frame of `n` bytes goes on the wire
whole, in order, and its slot is freed, by `TXT_START`, `n` times `DMA_BYTE`, `DMA_COMPLETE`, `TXT_WAKE_DONE`, `TXT_GAP_END` (R198 is
the spec's derivation from R185 to R193). -/
def Obligations.UninterruptedTransferSendsTheWholeFrame : Prop :=
  ∀ (s : State) (k h n : Nat) (rest : List Nat) (f : List Byte) (more : List Entry), Inv s → s.txs = .idle → s.cts = true →
    s.ctsFallPend = false → s.txq = h :: rest → s.ptx.len[h]? = some n →
    Memory.readN s.mem (slotBase s.cfg .ptx h) n = some f →
    s.sched = entries k (.txtStart :: List.replicate n .dmaByte ++ [.dmaComplete, .txtWakeDone, .txtGapEnd]) ++ more →
    ∃ t, Sys2Proof.core.run (n + 4) s = .next t ∧ t.txq = rest ∧ t.txs = .idle ∧ t.sched = more ∧ t.mem = s.mem
      ∧ t.ptx = { s.ptx with inUse := s.ptx.inUse.set h false }
      ∧ t.lineOut = s.lineOut ++ [.start h] ++ f.map .byte ++ [.complete]

/-- A collision after `j` bytes: the wire has seen the first `j` bytes, the transfer is aborted, and the frame is again at the head of
the same queue with its slot still in use, ready to be sent once CTS is back (R190, R191, R195; the spec's choices D14, D16). -/
def Obligations.CollisionPutsTheFrameBackInFront : Prop :=
  ∀ (s : State) (k h n j : Nat) (rest : List Nat) (f : List Byte) (more : List Entry), Inv s → s.txs = .idle → s.cts = true →
    s.ctsFallPend = false → s.txq = h :: rest → s.ptx.len[h]? = some n → j ≤ n →
    Memory.readN s.mem (slotBase s.cfg .ptx h) n = some f →
    s.sched = entries k (.txtStart :: List.replicate j .dmaByte ++ [.ctsFall, .arbStep, .txtWakeColl, .ctsRise]) ++ more →
    ∃ t, Sys2Proof.core.run (j + 5) s = .next t ∧ t.txq = s.txq ∧ t.txs = .idle ∧ t.sched = more ∧ t.mem = s.mem
      ∧ t.ptx = s.ptx ∧ t.cts = true ∧ t.ctsFallPend = false ∧ t.txWake = .none
      ∧ t.lineOut = s.lineOut ++ [.start h] ++ (f.take j).map .byte ++ [.abort j]

/-- From the line to the host: the bytes of a message's image received one by one, then the line idle, then the RX task, deliver the
message's command and leave the receiver as it was (R150; the composition of R151, R154, R156, R165). -/
def Obligations.ReceivedMessageReachesTheHost : Prop :=
  ∀ (s : State) (k : Nat) (i : Instr) (f : List Byte) (more : List Entry), Inv s → s.rxCnt = 0 → s.rxTag = .ok → s.rxq = [] →
    (∃ j, j < s.cfg.nRx ∧ s.prx.inUse[j]? = some false) → s.cmdq.length < s.cfg.cmdqCap → isInbound i = true →
    WellFormed s.cfg i = true → encode s.cfg i = some f → f.length ≤ s.cfg.rxCap →
    s.sched = entries k (f.map .rxByte ++ [.rxIdle, .rxtStep]) ++ more →
    ∃ t, Sys2Proof.core.run (f.length + 2) s = .next t ∧ t.cmdq = s.cmdq ++ (cmdDecodeSpec s.cfg f).toList ∧ t.rxq = []
      ∧ t.rxCnt = 0 ∧ t.rxTag = .ok ∧ t.prx.inUse = s.prx.inUse ∧ t.sched = more
      ∧ t.rxIn = s.rxIn ++ f.map .rxByte ++ [.rxIdle]

/-! ### The host agent (spec/45_host_changer_fsm.md) -/

/-- Taking a command (R284, R285): it is recorded in `cmd_out` and connects; `Stop`, `Pause`, `Play` set the play and audio state, and no
other command changes the `ChangerState`; what is forwarded to the engine and which status is left to be sent are the rows of R285.
The rows of `FastPlay`, `Traffic` and the forwarding of the first three are the spec's choice D27, that the connecting command is
dispatched its choice D26; that nothing is forwarded for `FastPlay`, where the table says "not given", is the model's (DESIGN CHOICE,
log 32); the split of the emission from the step is the model's (log 20). -/
def Obligations.HostCommandUpdatesForwardsAndReports : Prop :=
  ∀ (s : State) (c : TypedCommand) (rest : List TypedCommand), s.booted = true → s.hostPend = [] → s.cmdq = c :: rest →
    ∃ t, hostExec .cmd s = .next t ∧ t.cmdq = rest ∧ t.cmdOut = s.cmdOut ++ [c] ∧ t.cs.lifecycle = .connected
      ∧ t.cs = { s.cs with
          lifecycle := .connected
          play := if c = .stop then .stopped else if c = .pause then .paused else if c = .play then .playing else s.cs.play
          audioState := if c = .stop then s.cfg.audioStopped else if c = .pause then s.cfg.audioPaused
            else if c = .play then s.cfg.audioPlaying else s.cs.audioState }
      ∧ (c = .traffic → t.hostPend = [])
      ∧ (c = .poll → t.hostPend = [.send .pollResponse])
      ∧ (∀ d, c = .fastPlay d → t.hostPend = [.send (.fastPlaying d)])
      ∧ (c ≠ .traffic → c ≠ .poll → (∀ d, c ≠ .fastPlay d) →
        ∃ v, t.hostPend = [.send v] ∧ ((t.cs.play = .stopped ∧ v = .stopped) ∨ (t.cs.play = .paused ∧ v = .paused)
          ∨ (t.cs.play = .playing ∧ v = .playing)))
      ∧ (c = .stop → t.engineOut = s.engineOut ++ [.stop]) ∧ (c = .pause → t.engineOut = s.engineOut ++ [.pause])
      ∧ (c = .play → t.engineOut = s.engineOut ++ [.play])
      ∧ (∀ n, c = .changeDisc n → t.engineOut = s.engineOut ++ [.changeDisc n])
      ∧ (∀ d, c = .seek d → t.engineOut = s.engineOut ++ [if d = .fwd then .seekNext else .seekPrev])
      ∧ (∀ x, c = .scanDisc x → t.engineOut = s.engineOut ++ [.scanDisc x])
      ∧ (∀ x, c = .randomize x → t.engineOut = s.engineOut ++ [.randomize x])
      ∧ (c = .status ∨ c = .poll ∨ c = .traffic ∨ (∃ d, c = .fastPlay d) → t.engineOut = s.engineOut)

/-- The handshake converges: no step leaves `Connected` (R284: "There is no transition back to `NotConnected`"), the step that takes a
command connects, and once connected the announce tick is never enabled again. Before that (R283): `HOST_BOOT`, enabled once, and
`HOST_ANNOUNCE_TICK`, enabled while not connected with `cmdq` empty and budget left, send `Announce` with the common fields of `cs` and
set `announces` to 1, or count it up; with no slot or room for the frame they hold. That a spent budget ends the announcing is the
spec's choice D34; that the tick needs a booted host with nothing left to send is log 30. -/
def Obligations.ConnectionIsForEver : Prop :=
  ∀ s t : State,
    (step s = .next t → s.cs.lifecycle = .connected → t.cs.lifecycle = .connected)
    ∧ (hostExec .cmd s = .next t → t.ret = .done → t.cs.lifecycle = .connected)
    ∧ (s.cs.lifecycle = .connected → Holds s (hostExec .announceTick s))
    ∧ (s.cfg.wf = true →
      let sent := exec (.announce ⟨s.cs.audioState, s.cs.discBitmap, s.cs.currentDisc, s.cs.currentTrack⟩) s
      (s.booted = false → CanQueue s →
        ∃ u, sent = .next u ∧ u.ret = .queued ∧ hostExec .boot s = .next { u with announces := 1, booted := true })
      ∧ (s.booted = true ∨ ¬ CanQueue s → Holds s (hostExec .boot s))
      ∧ (s.booted = true → s.hostPend = [] → s.cs.lifecycle = .notConnected → s.cmdq = [] →
        s.cfg.announceBudget = none ∨ (∃ n, s.cfg.announceBudget = some n ∧ s.announces < n) → CanQueue s →
        ∃ u, sent = .next u ∧ u.ret = .queued ∧ hostExec .announceTick s = .next { u with announces := s.announces + 1 })
      ∧ (s.cmdq ≠ [] ∨ (∃ n, s.cfg.announceBudget = some n ∧ n ≤ s.announces) ∨ ¬ CanQueue s →
        Holds s (hostExec .announceTick s)))

/-- `HOST_SENSOR(B)` (R290 to R293): an empty or discless magazine stops, zeroes and emits `Stopped`; otherwise two `CheckingForDisc`
for each disc 1..6 with the masks before and including it are left to be sent, then the final fields and `Stopped`. -/
def Obligations.SensorClassifiesAndEnumerates : Prop :=
  ∀ (s : State) (b : Byte), s.booted = true → s.hostPend = [] →
    (b = 0 ∨ (b.getLsbD 7 = true ∧ b &&& 0x3F = 0) →
      ∃ t, hostExec (.sensor b) s = .next t ∧ t.cs.play = .stopped ∧ t.cs.currentDisc = 0 ∧ t.cs.currentTrack = 0
        ∧ t.cs.discBitmap = b ∧ t.cs.audioState = s.cfg.audioStopped ∧ t.hostPend = [.send .stopped]
        ∧ t.cs.disc = (if b = 0 then .noMagazine else .noDiscs) ∧ t.engineOut = s.engineOut ++ [.stop])
    ∧ (¬ (b = 0 ∨ (b.getLsbD 7 = true ∧ b &&& 0x3F = 0)) →
      ∃ t, hostExec (.sensor b) s = .next t ∧ t.cs.disc = .enumerating ∧ t.cs.play = s.cs.play
        ∧ t.hostPend = (Disc.all.map fun d =>
            [HostAction.send (.checkingForDisc (BitVec.ofNat 8 (b.toNat % 2 ^ (d.toNat - 1))) d false),
             HostAction.send (.checkingForDisc (BitVec.ofNat 8 (b.toNat % 2 ^ d.toNat)) d (!b.getLsbD (d.toNat - 1)))]).flatten
          ++ [.finishEnumeration b, .send .stopped])

/-- What is left of a host step is done in order by `resume` (log 20). A report left to be sent is sent: `SEND_STATUS` of its variant
with the common fields of `cs` at that moment, or of the given status, and it is left no more; with no slot or room for its frame the
step holds and the report stays (R282, R285, R292, R294). At the end of an enumeration the position is disc 2, track 1, whatever the
bitmask (R293), and the state is `DiscsPresent` with that bitmask. With nothing left it holds. -/
def Obligations.EnumerationEndsAtDiscTwoTrackOne : Prop :=
  ∀ (s : State) (b : Byte) (rest : List HostAction),
    (s.hostPend = .finishEnumeration b :: rest →
      hostExec .resume s = .next { s with
        cs := { s.cs with currentDisc := 2, currentTrack := 1, disc := .discsPresent, discBitmap := b }
        hostPend := rest, ret := .done })
    ∧ (∀ st : TypedStatus, s.cfg.wf = true →
      s.hostPend = .sendExact st :: rest
        ∨ (s.hostPend = .send st.variant :: rest
          ∧ st.common = ⟨s.cs.audioState, s.cs.discBitmap, s.cs.currentDisc, s.cs.currentTrack⟩) →
      (CanQueue s →
        ∃ t, exec (.sendStatus st) s = .next t ∧ t.ret = .queued ∧ hostExec .resume s = .next { t with hostPend := rest })
      ∧ (¬ CanQueue s → Holds s (hostExec .resume s)))
    ∧ (s.hostPend = [] → Holds s (hostExec .resume s))
end

