-- ==== Sys2Proof/Tests/Slice0.lean ====
section
/-! SUPPORT. The model's own tests: the well-formedness smoke, decoding of words and images written out from the spec, one step of each
operation on the vectors of spec/95_test_vectors.md, and for every statement with hypotheses a concrete state that meets them. Each
expected value is the spec's, by the vector or rule its comment names. -/

open Sys2Proof Sys2Proof.Machine

namespace Sys2Proof.Tests

set_option maxRecDepth 4000

/-! ### Helpers -/

/-- The next state of an outcome, if it is one. -/
def nextOf : Out → Option State
  | .next s => some s
  | .fault _ => none
  | .refused _ => none

/-- The fault of an outcome, if it is one. -/
def faultOf : Out → Option Fault
  | .next _ => none
  | .fault e => some e
  | .refused _ => none

/-- A field of the next state. -/
def after {α : Type} (o : Out) (f : State → α) : Option α := (nextOf o).map f

/-- Two slots in each pool, queues of two: the tables of spec/95 section 2.1. -/
def cfg2 : Cfg := { Cfg.default with nRx := 2, nTx := 2, rxqCap := 2, txqCap := 2, cmdqCap := 2 }

/-- Right after reset. PRX slots begin at 0 and 33, PTX slots at 66 and 99, `rx_buf` at 132. -/
def base : State := State.resetWith cfg2 true

/-- Vector V1, a poll. -/
def pollRun : List Byte := [0x68, 0x03, 0x18, 0x01, 0x72]

/-- Vector C9, a play command. -/
def playRun : List Byte := [0x68, 0x05, 0x18, 0x38, 0x03, 0x00, 0x4E]

/-- Vector T3, frame A of program P2. -/
def frameA : List Byte := [0x18, 0x03, 0x68, 0xAA, 0xD9]

/-- A run at the head of `rxq`, in slot 0. -/
def withRun (tag : Tag) (f : List Byte) : State :=
  { base with
    rxq := [0], prx := ⟨[true, false], [f.length, 0]⟩, prxTag := [tag, .ok], mem := Memory.writeN [] 0 f }

/-- A run being assembled. -/
def withScratch (f : List Byte) : State := { base with rxCnt := f.length, mem := Memory.writeN [] 132 f }

/-- Frame A pending in `txq`, in slot 0. -/
def pendingA : State := { base with txq := [0], ptx := ⟨[true, false], [5, 0]⟩, mem := Memory.writeN [] 66 frameA }

/-- Frame A in flight, `k` bytes out, slot 1 pending behind it. -/
def sendingA (k : Nat) : State :=
  { base with
    txq := [1], txCur := 0, txs := .sending, dmaActive := true, dmaIdx := k
    ptx := ⟨[true, true], [5, 5]⟩, mem := Memory.writeN (Memory.writeN [] 66 frameA) 99 frameA }

/-- Frame A's transfer ended for the reason `w`. -/
def woken (w : Wake) : State := { sendingA 5 with dmaActive := false, txWake := w }

/-- Every slot of both pools in use by callers. -/
def exhausted : State :=
  { base with
    prx := ⟨[true, true], [0, 0]⟩, ptx := ⟨[true, true], [0, 0]⟩
    held := [⟨.prx, 0⟩, ⟨.prx, 1⟩, ⟨.ptx, 0⟩, ⟨.ptx, 1⟩] }

/-- The typed-status fields of vectors E3 to E5. -/
def cm3 : Common := ⟨0x09, 0xBF, 3, 42⟩

/-- The typed-status fields of vectors E1, E2, E9. -/
def cm2 : Common := ⟨0x02, 0x05, 2, 1⟩

/-- The run invariant as a test that can be evaluated. -/
def invCheck (s : State) : Bool :=
  s.cfg.wf && decide (s.prx.inUse.length = s.cfg.nRx) && decide (s.prx.len.length = s.cfg.nRx)
  && decide (s.prxTag.length = s.cfg.nRx) && decide (s.ptx.inUse.length = s.cfg.nTx)
  && decide (s.ptx.len.length = s.cfg.nTx) && Memory.wf s.mem && s.mem.all (fun cell => decide (cell.1 < memSize s.cfg))
  && decide (s.rxCnt ≤ s.cfg.rxCap) && (Memory.readN s.mem (rxBufBase s.cfg) s.rxCnt).isSome
  && decide (s.rxq.length ≤ s.cfg.rxqCap) && decide (s.txq.length ≤ s.cfg.txqCap) && decide (s.cmdq.length ≤ s.cfg.cmdqCap)
  && ([Pool.prx, Pool.ptx].all fun p => decide (owned s p).Nodup
    && (owned s p).all (fun i => decide ((s.slots p).inUse[i]? = some true))
    && (List.range (s.slots p).inUse.length).all (fun i =>
      decide ((s.slots p).inUse[i]? ≠ some true) || decide (i ∈ owned s p)))
  && s.rxq.all (fun h => match s.prx.len[h]? with
    | some n => decide (n ≤ s.cfg.rxCap) && (Memory.readN s.mem (slotBase s.cfg .prx h) n).isSome
    | none => false)
  && (inFlight s ++ s.txq).all (fun h => match s.ptx.len[h]? with
    | some n => decide (n ≤ s.cfg.maxFrameTx) && (Memory.readN s.mem (slotBase s.cfg .ptx h) n).isSome
    | none => false)
  && (!s.dmaActive || decide (s.txs = .sending ∧ s.txWake = .none))
  && (decide (s.txs ≠ .sending) || s.dmaActive || decide (s.txWake ≠ .none))
  && (decide (s.txs = .sending) || decide (s.txWake = .none))
  && (!s.dmaActive || (match s.ptx.len[s.txCur]? with | some n => decide (s.dmaIdx ≤ n) | none => true))

/-- A state that passes the test is a state of the run invariant. -/
theorem inv_of_check {s : State} (h : invCheck s = true) : Inv s := by
  simp only [invCheck, Bool.and_eq_true, Bool.or_eq_true, Bool.not_eq_true', decide_eq_true_eq, List.all_eq_true,
    List.mem_cons, List.not_mem_nil, or_false, forall_eq_or_imp, forall_eq, List.mem_range] at h
  obtain ⟨⟨⟨⟨⟨⟨⟨⟨⟨⟨⟨⟨⟨⟨⟨⟨⟨⟨⟨h1, h2⟩, h3⟩, h4⟩, h5⟩, h6⟩, h7⟩, h8⟩, h9⟩, h10⟩, h11⟩, h12⟩, h13⟩, hp, ht⟩, h14⟩, h15⟩, h16⟩, h17⟩,
    h18⟩, h19⟩ := h
  refine ⟨h1, h2, h3, h4, h5, h6, h7, h8, h9, h10, h11, h12, h13, ?_, ?_, ?_, ?_, ?_, ?_, ?_, ?_⟩
  · intro p; cases p
    · exact hp.1.1
    · exact ht.1.1
  · have key : ∀ p, ((∀ x ∈ owned s p, (s.slots p).inUse[x]? = some true)
        ∧ ∀ x < (s.slots p).inUse.length, (s.slots p).inUse[x]? ≠ some true ∨ x ∈ owned s p) →
        ∀ i, i ∈ owned s p ↔ (s.slots p).inUse[i]? = some true := by
      intro p hk i
      refine ⟨hk.1 i, fun hi => ?_⟩
      have hl : i < (s.slots p).inUse.length := by
        by_contra hc
        rw [List.getElem?_eq_none (by omega)] at hi
        cases hi
      exact (hk.2 i hl).resolve_left (fun hc => hc hi)
    intro p; cases p
    · exact key .prx ⟨hp.1.2, hp.2⟩
    · exact key .ptx ⟨ht.1.2, ht.2⟩
  · intro i hi
    have := h14 i hi
    split at this
    · rename_i n hn; exact ⟨n, hn, by simpa [written] using this⟩
    · cases this
  · intro i hi
    have := h15 i hi
    split at this
    · rename_i n hn; exact ⟨n, hn, by simpa [written] using this⟩
    · cases this
  · intro hd; exact h16.resolve_left (by simp [hd])
  · intro hs hd
    rcases h17 with (h | h) | h
    · exact absurd hs h
    · simp [hd] at h
    · exact h
  · intro hs; exact h18.resolve_left hs
  · intro hd n hn
    have := h19.resolve_left (by simp [hd])
    rw [hn] at this
    simpa using this

/-! ### Well-formedness: an ill-formed term for each check, refused -/

/-- R91, R223: from us; to us; a payload of 30 bytes. -/
theorem test_traffic_ill_formed :
    WellFormed cfg2 (.traffic 0x18 0x3B []) = false ∧ WellFormed cfg2 (.traffic 0x68 0xFF []) = false
    ∧ WellFormed cfg2 (.traffic 0x68 0x3B (List.replicate 30 0)) = false
    ∧ WellFormed cfg2 (.traffic 0x68 0x3B (List.replicate 29 0)) = true := by decide

/-- R224: from us; not to us. -/
theorem test_poll_ill_formed :
    WellFormed cfg2 (.poll 0x18 0x18) = false ∧ WellFormed cfg2 (.poll 0x68 0x3B) = false
    ∧ WellFormed cfg2 (.poll 0x68 0xBF) = true := by decide

/-- R106, R115: the same for every sub-command; an illegal data byte is encodable. -/
theorem test_cdc_ill_formed : ∀ k ∈ [Instr.cdcStatus, .cdcStop, .cdcPause, .cdcPlay, .cdcFastplay, .cdcSeek, .cdcAltseek,
      .cdcChangedisc, .cdcScandisc, .cdcRandomize],
    WellFormed cfg2 (k 0x18 0x18 0) = false ∧ WellFormed cfg2 (k 0x68 0x3B 0) = false
    ∧ WellFormed cfg2 (k 0x68 0x18 0xFF) = true := by decide

/-- R162: `FRAME_PARSE` of an invalid run (vector V2). -/
theorem test_parse_ill_formed :
    WellFormed cfg2 (.frameParse [0x68, 0x03, 0x18, 0x01, 0x73]) = false
    ∧ WellFormed cfg2 (.frameParse pollRun) = true := by decide

/-- R9, R355: no slot; no queue; a small slot; a scratch buffer beyond the slot or below 4; a value of R8 changed; `T_IDLE` of 0. -/
theorem test_cfg_sizes_refused :
    Cfg.wf { cfg2 with nRx := 0 } = false ∧ Cfg.wf { cfg2 with nTx := 0 } = false ∧ Cfg.wf { cfg2 with rxqCap := 0 } = false
    ∧ Cfg.wf { cfg2 with txqCap := 0 } = false ∧ Cfg.wf { cfg2 with cmdqCap := 0 } = false
    ∧ Cfg.wf { cfg2 with slotBytes := 32, rxCap := 32 } = false ∧ Cfg.wf { cfg2 with rxCap := 34 } = false
    ∧ Cfg.wf { cfg2 with rxCap := 3 } = false ∧ Cfg.wf { cfg2 with lenBias := 3 } = false ∧ Cfg.wf { cfg2 with tIdle := some 0 } = false
    ∧ Cfg.wf { cfg2 with tIdle := some 1 } = true ∧ Cfg.wf cfg2 = true := by decide

/-- R94, R108, R111, R263: equal sub-commands; the radio's address ours; an empty template; a long one; no `BITMAP`; an `ERR` of
equal bytes; an announcement that is no broadcast. -/
theorem test_cfg_dialect_refused :
    Cfg.wf { cfg2 with subStop := 0x00 } = false ∧ Cfg.wf { cfg2 with radioAddr := 0x18 } = false
    ∧ Cfg.wf { cfg2 with template := { Templates.default with stopped := ⟨.radioAddr, []⟩ } } = false
    ∧ Cfg.wf { cfg2 with template := { Templates.default with playing := ⟨.radioAddr, List.replicate 21 .audio⟩ } } = false
    ∧ Cfg.wf { cfg2 with template := { Templates.default with checkingForDisc := ⟨.radioAddr, [.err 0 8]⟩ } } = false
    ∧ Cfg.wf { cfg2 with template := { Templates.default with checkingForDisc := ⟨.radioAddr, [.bitmap, .err 8 8]⟩ } } = false
    ∧ Cfg.wf { cfg2 with template := { Templates.default with announce := ⟨.radioAddr, [.k 2, .k 1]⟩ } } = false := by decide

/-- R335: a step with a bad configuration is refused. -/
theorem test_bad_cfg_step_refused :
    nextOf (step { base with cfg := { cfg2 with nRx := 0 } }) = none
    ∧ faultOf (step { base with cfg := { cfg2 with nRx := 0 } }) = none := by decide

/-! ### Decoding: images written out from spec/30_encoding.md R105, R106 and the vectors C1 to C35 -/

/-- C1 to C3. -/
theorem test_decode_poll :
    (decode cfg2 pollRun).toOption = some (.poll 0x68 0x18)
    ∧ (decode cfg2 [0x68, 0x03, 0xBF, 0x01, 0xD5]).toOption = some (.poll 0x68 0xBF)
    ∧ (decode cfg2 [0x68, 0x03, 0xFF, 0x01, 0x95]).toOption = some (.poll 0x68 0xFF) := by decide

/-- C30. -/
theorem test_decode_traffic :
    (decode cfg2 [0x68, 0x03, 0x3B, 0x01, 0x51]).toOption = some (.traffic 0x68 0x3B [0x01])
    ∧ (decode cfg2 [0x50, 0x04, 0x68, 0x32, 0x11, 0x1F]).toOption = some (.traffic 0x50 0x68 [0x32, 0x11])
    ∧ (decode cfg2 [0x68, 0x05, 0x3B, 0x38, 0x03, 0x00, 0x6D]).toOption = some (.traffic 0x68 0x3B [0x38, 0x03, 0x00]) := by decide

/-- C5, C7, C8, C9, C11, C14, C16, C18, C22, C23: one image for each sub-command. -/
theorem test_decode_cdc :
    (decode cfg2 [0x68, 0x05, 0x18, 0x38, 0x00, 0x00, 0x4D]).toOption = some (.cdcStatus 0x68 0x18 0)
    ∧ (decode cfg2 [0x68, 0x05, 0x18, 0x38, 0x01, 0x00, 0x4C]).toOption = some (.cdcStop 0x68 0x18 0)
    ∧ (decode cfg2 [0x68, 0x05, 0x18, 0x38, 0x02, 0x00, 0x4F]).toOption = some (.cdcPause 0x68 0x18 0)
    ∧ (decode cfg2 playRun).toOption = some (.cdcPlay 0x68 0x18 0)
    ∧ (decode cfg2 [0x68, 0x05, 0x18, 0x38, 0x04, 0x00, 0x49]).toOption = some (.cdcFastplay 0x68 0x18 0)
    ∧ (decode cfg2 [0x68, 0x05, 0x18, 0x38, 0x05, 0x00, 0x48]).toOption = some (.cdcSeek 0x68 0x18 0)
    ∧ (decode cfg2 [0x68, 0x05, 0x18, 0x38, 0x0A, 0x01, 0x46]).toOption = some (.cdcAltseek 0x68 0x18 1)
    ∧ (decode cfg2 [0x68, 0x05, 0x18, 0x38, 0x06, 0x06, 0x4D]).toOption = some (.cdcChangedisc 0x68 0x18 6)
    ∧ (decode cfg2 [0x68, 0x05, 0x18, 0x38, 0x07, 0x01, 0x4B]).toOption = some (.cdcScandisc 0x68 0x18 1)
    ∧ (decode cfg2 [0x68, 0x05, 0x18, 0x38, 0x08, 0x01, 0x44]).toOption = some (.cdcRandomize 0x68 0x18 1) := by decide

/-- C4, C24 to C29, C33, C35: every rejection by its cause. -/
theorem test_decode_rejections :
    decodeCause cfg2 [0x68, 0x03, 0x18, 0x00, 0x73] = some .unrecognised
    ∧ decodeCause cfg2 [0x68, 0x05, 0x18, 0x38, 0x09, 0x00, 0x44] = some .unrecognised
    ∧ decodeCause cfg2 [0x68, 0x05, 0x18, 0x39, 0x00, 0x00, 0x4C] = some .unrecognised
    ∧ decodeCause cfg2 [0x68, 0x06, 0x18, 0x38, 0x03, 0x00, 0x00, 0x4D] = some .unrecognised
    ∧ decodeCause cfg2 [0x68, 0x04, 0x18, 0x38, 0x03, 0x4F] = some .unrecognised
    ∧ decodeCause cfg2 [0x68, 0x02, 0x18, 0x72] = some .unrecognised
    ∧ decodeCause cfg2 [0x18, 0x05, 0x68, 0x38, 0x03, 0x00, 0x4E] = some .selfEcho
    ∧ decodeCause cfg2 [0x68, 0x03, 0x18, 0x01, 0x73] = some .badChecksum
    ∧ decodeCause cfg2 [0x00, 0x00, 0x00, 0x00] = some .lengthMismatch
    ∧ decodeCause cfg2 [0x68, 0x03, 0x18] = some .shortRun
    ∧ decodeCause cfg2 [0x68, 0x05, 0x18, 0x38, 0x03, 0x02, 0x4C] = some .dataOutOfRange := by decide

/-- C6, C10 to C17: the results of the data byte. -/
theorem test_cmd_decode_results :
    cmdDecode cfg2 [0x68, 0x05, 0x18, 0x38, 0x00, 0x01, 0x4C] = some .status
    ∧ cmdDecode cfg2 [0x68, 0x05, 0x18, 0x38, 0x03, 0x02, 0x4C] = none
    ∧ cmdDecode cfg2 [0x68, 0x05, 0x18, 0x38, 0x04, 0x00, 0x49] = some (.fastPlay .rev)
    ∧ cmdDecode cfg2 [0x68, 0x05, 0x18, 0x38, 0x04, 0x01, 0x48] = some (.fastPlay .fwd)
    ∧ cmdDecode cfg2 [0x68, 0x05, 0x18, 0x38, 0x04, 0xFF, 0xB6] = none
    ∧ cmdDecode cfg2 [0x68, 0x05, 0x18, 0x38, 0x05, 0x01, 0x49] = some (.seek .rev)
    ∧ cmdDecode cfg2 [0x68, 0x05, 0x18, 0x38, 0x0A, 0x00, 0x47] = some (.seek .fwd)
    ∧ cmdDecode cfg2 [0x68, 0x05, 0x18, 0x38, 0x0A, 0x01, 0x46] = some (.seek .rev) := by decide

/-- C18 to C23. -/
theorem test_cmd_decode_results_two :
    cmdDecode cfg2 [0x68, 0x05, 0x18, 0x38, 0x06, 0x01, 0x4A] = some (.changeDisc .d1)
    ∧ cmdDecode cfg2 [0x68, 0x05, 0x18, 0x38, 0x06, 0x06, 0x4D] = some (.changeDisc .d6)
    ∧ cmdDecode cfg2 [0x68, 0x05, 0x18, 0x38, 0x06, 0x00, 0x4B] = none
    ∧ cmdDecode cfg2 [0x68, 0x05, 0x18, 0x38, 0x06, 0x07, 0x4C] = none
    ∧ cmdDecode cfg2 [0x68, 0x05, 0x18, 0x38, 0x07, 0x00, 0x4A] = some (.scanDisc .off)
    ∧ cmdDecode cfg2 [0x68, 0x05, 0x18, 0x38, 0x07, 0x01, 0x4B] = some (.scanDisc .on)
    ∧ cmdDecode cfg2 [0x68, 0x05, 0x18, 0x38, 0x08, 0x00, 0x45] = some (.randomize .off)
    ∧ cmdDecode cfg2 [0x68, 0x05, 0x18, 0x38, 0x08, 0x01, 0x44] = some (.randomize .on) := by decide

/-- C31, C32, C34, C35 and the last two under `LEN_CHECK = none`. -/
theorem test_cmd_decode_addresses_and_length :
    cmdDecode cfg2 [0x68, 0x05, 0xBF, 0x38, 0x03, 0x00, 0xE9] = some .play
    ∧ cmdDecode cfg2 [0x68, 0x05, 0xFF, 0x38, 0x03, 0x00, 0xA9] = some .play
    ∧ cmdDecode cfg2 [0x3F, 0x05, 0x18, 0x38, 0x03, 0x00, 0x19] = some .play
    ∧ cmdDecode cfg2 (pollRun ++ pollRun) = none
    ∧ cmdDecode { cfg2 with lenCheck := .none } (pollRun ++ pollRun) = some .poll
    ∧ cmdDecode cfg2 [0, 0, 0, 0] = none ∧ cmdDecode { cfg2 with lenCheck := .none } [0, 0, 0, 0] = some .traffic := by decide

/-- R119: one word of spec/opcode_table.json for each format, bit by bit; `TRAFFIC` has no payload bits. -/
theorem test_table_words :
    decodeTableWord 0 0 = some (.traffic 0x68 0x68 [])
    ∧ decodeTableWord 8 0x01 = some (.poll 0x68 0x18)
    ∧ decodeTableWord 24 0x380000 = some (.cdcStatus 0x68 0x18 0)
    ∧ decodeTableWord 24 0x380801 = some (.cdcRandomize 0x68 0x18 1)
    ∧ decodeTableWord 64 0x3900020005000201 = some (.stStopped cm2)
    ∧ decodeTableWord 64 0x3909020801000201 = some (.stCheckingfordisc ⟨0x02, 0, 0, 1⟩ 0x01 .d2 true)
    ∧ decodeTableWord 16 0x0201 = some (.announce ⟨0, 0, 0, 0⟩)
    ∧ decodeTableWord 16 0x0200 = some (.pollResponse ⟨0, 0, 0, 0⟩) := by decide

/-! ### Images of the outbound messages: vectors E1 to E16 -/

/-- E1 to E8. -/
theorem test_status_images :
    encode cfg2 (.stStopped cm2) = some [0x18, 0x0A, 0x68, 0x39, 0x00, 0x02, 0x00, 0x05, 0x00, 0x02, 0x01, 0x47]
    ∧ encode cfg2 (.stPaused cm2) = some [0x18, 0x0A, 0x68, 0x39, 0x01, 0x02, 0x00, 0x05, 0x00, 0x02, 0x01, 0x46]
    ∧ encode cfg2 (.stPlaying cm3) = some [0x18, 0x0A, 0x68, 0x39, 0x02, 0x09, 0x00, 0xBF, 0x00, 0x03, 0x42, 0xB6]
    ∧ encode cfg2 (.stFastplayingF cm3) = some [0x18, 0x0A, 0x68, 0x39, 0x03, 0x09, 0x00, 0xBF, 0x00, 0x03, 0x42, 0xB7]
    ∧ encode cfg2 (.stFastplayingR cm3) = some [0x18, 0x0A, 0x68, 0x39, 0x04, 0x09, 0x00, 0xBF, 0x00, 0x03, 0x42, 0xB0]
    ∧ encode cfg2 (.stSeekingF { cm3 with currentTrack := 43 })
        = some [0x18, 0x0A, 0x68, 0x39, 0x05, 0x09, 0x00, 0xBF, 0x00, 0x03, 0x43, 0xB0]
    ∧ encode cfg2 (.stSeekingR { cm3 with currentTrack := 41 })
        = some [0x18, 0x0A, 0x68, 0x39, 0x06, 0x09, 0x00, 0xBF, 0x00, 0x03, 0x41, 0xB1]
    ∧ encode cfg2 (.stLoadingdisc ⟨0x02, 0xBF, 4, 1⟩)
        = some [0x18, 0x0A, 0x68, 0x39, 0x08, 0x02, 0x00, 0xBF, 0x00, 0x04, 0x01, 0xF3] := by decide

/-- E9, E9b, E10, E13, E14, E15, E16. -/
theorem test_status_images_two :
    encode cfg2 (.stCheckingfordisc cm2 0x01 .d2 true)
        = some [0x18, 0x0A, 0x68, 0x39, 0x09, 0x02, 0x08, 0x01, 0x00, 0x02, 0x01, 0x42]
    ∧ encode cfg2 (.stCheckingfordisc cm2 0x01 .d2 false)
        = some [0x18, 0x0A, 0x68, 0x39, 0x09, 0x02, 0x00, 0x01, 0x00, 0x02, 0x01, 0x4A]
    ∧ encode cfg2 (.stStopped ⟨0x02, 0x00, 0, 0⟩)
        = some [0x18, 0x0A, 0x68, 0x39, 0x00, 0x02, 0x00, 0x00, 0x00, 0x00, 0x01, 0x40]
    ∧ encode cfg2 (.stPlaying { cm3 with currentTrack := 199 })
        = some [0x18, 0x0A, 0x68, 0x39, 0x02, 0x09, 0x00, 0xBF, 0x00, 0x03, 0x99, 0x6D]
    ∧ encode cfg2 (.stPlaying ⟨0x09, 0xFF, 6, 255⟩)
        = some [0x18, 0x0A, 0x68, 0x39, 0x02, 0x09, 0x00, 0xFF, 0x00, 0x06, 0x55, 0xE4]
    ∧ encode cfg2 (.announce cm3) = some [0x18, 0x04, 0xFF, 0x02, 0x01, 0xE0]
    ∧ encode cfg2 (.pollResponse cm3) = some [0x18, 0x04, 0xFF, 0x02, 0x00, 0xE1] := by decide

/-- R94, R112: the default templates follow `RADIO_ADDR` and `BCAST_HI`, and a byte of its own is a destination too. -/
theorem test_status_destinations :
    let c : Cfg := { cfg2 with radioAddr := 0x80, bcastHi := 0xE0 }
    (statusEncode c ⟨.stopped, cm2⟩).1 = 0x80 ∧ (statusEncode c ⟨.announce, cm2⟩).1 = 0xE0 ∧ c.wf = true
    ∧ ({ cfg2 with template := { Templates.default with announce := ⟨.byte 0xBF, [.k 2, .k 1]⟩ } } : Cfg).wf = true := by decide

/-- The table of spec/95 section 2.7, both folds. -/
theorem test_track_table :
    ([0, 1, 9, 10, 42, 99, 100, 101, 102, 150, 199, 200, 201, 202, 255].map fun t => bcd8 (trackFold cfg2 t))
      = [0x01, 0x01, 0x09, 0x10, 0x42, 0x99, 0x01, 0x01, 0x02, 0x50, 0x99, 0x01, 0x01, 0x02, 0x55]
    ∧ ([42, 99, 100, 102, 199, 255].map fun t => bcd8 (trackFold { cfg2 with trackFold := .clamp } t))
      = [0x42, 0x99, 0x01, 0x01, 0x01, 0x01] := by decide

/-- T3 to T6, T9, T10. -/
theorem test_populate :
    framePopulate cfg2 0x18 0x68 [0xAA] = some frameA
    ∧ framePopulate cfg2 0x18 0x68 [0xBB, 0xCC] = some [0x18, 0x04, 0x68, 0xBB, 0xCC, 0x03]
    ∧ framePopulate cfg2 0x18 0x68 [0x00] = some [0x18, 0x03, 0x68, 0x00, 0x73]
    ∧ framePopulate cfg2 0xFF 0xFF [0xFF] = some [0xFF, 0x03, 0xFF, 0xFF, 0xFC]
    ∧ (framePopulate cfg2 0x18 0x68 ((List.range 20).map fun k => BitVec.ofNat 8 (k + 1))).map (fun f => (f.length, f.getLast?))
      = some (24, some 0x72)
    ∧ framePopulate cfg2 0x18 0x68 [] = none ∧ framePopulate cfg2 0x18 0x68 (List.replicate 21 0) = none := by decide

/-- V1 to V8, V10, V11. -/
theorem test_validate :
    ([pollRun, [0x68, 0x03, 0x18, 0x01, 0x73], [0x68, 0x02, 0x18, 0x72], [0x68, 0x03, 0x18], [], [0, 0, 0, 0],
      pollRun ++ pollRun, [0x68, 0x04, 0x18, 0x01, 0x75], [0x68, 0x03, 0x19, 0x00, 0x72],
      [0x03, 0x68, 0x18, 0x01, 0x72]].map fun f => (frameValidate cfg2 f, frameValidate { cfg2 with lenCheck := .none } f))
    = [(true, true), (false, false), (true, true), (false, false), (false, false), (false, true), (false, true), (false, true),
       (true, true), (false, true)] := by decide

/-- R160, R162: the examples; outside R162's domain `FRAME_PARSE` still completes. -/
theorem test_xor_and_parse :
    xor8 [0x68, 0x03, 0x18, 0x01] = 0x72 ∧ xor8 [0xFF, 0xFF] = 0
    ∧ (frameParse cfg2 [0x68, 0x05, 0x18, 0x38, 0x03, 0x00, 0x4E]).payload = [0x38, 0x03, 0x00]
    ∧ (nextOf (exec (.frameParse []) base)).isSome = true := by decide

/-! ### One step of each operation -/

/-- A2 and A4. -/
theorem test_pool_alloc_the_free_slot :
    after (exec (.poolAlloc .ptx) { base with ptx := ⟨[true, false], [0, 0]⟩ }) (fun t => (t.ptx.inUse, t.ret))
      = some ([true, true], .handle ⟨.ptx, 1⟩)
    ∧ after (exec (.poolTryAlloc .prx) exhausted) (fun t => (t.prx, t.ret)) = some (exhausted.prx, .tryHandle none) := by decide

/-- A1: either slot; A3: hold. -/
theorem test_pool_alloc_choice_and_hold :
    after (exec (.poolAlloc .ptx) { base with pick := 0 }) (fun t => t.ret) = some (.handle ⟨.ptx, 0⟩)
    ∧ after (exec (.poolAlloc .ptx) { base with pick := 1 }) (fun t => t.ret) = some (.handle ⟨.ptx, 1⟩)
    ∧ after (exec (.poolAlloc .ptx) exhausted) (fun t => (t.ptx, t.ret)) = some (exhausted.ptx, .held) := by decide

/-- R133: the examples; A6. -/
theorem test_pool_free :
    after (exec (.poolFree .ptx ⟨.ptx, 0⟩) exhausted) (fun t => t.ptx.inUse) = some [false, true]
    ∧ after (exec (.poolFree .ptx ⟨.ptx, 7⟩) exhausted) (fun t => t.ptx.inUse) = some [true, true]
    ∧ after (exec (.poolFree .ptx ⟨.prx, 0⟩) exhausted) (fun t => (t.ptx.inUse, t.prx.inUse)) = some ([true, true], [true, true])
    ∧ after (exec (.poolFree .ptx ⟨.ptx, 1⟩) { base with ptx := ⟨[true, false], [0, 0]⟩ }) (fun t => t.ptx.inUse)
      = some [true, false] := by decide

/-- R151: the example and the overrun of B6. -/
theorem test_rx_byte :
    after (exec (.rxByte 0x68) base) (fun t => (t.rxCnt, t.rxTag, Memory.read t.mem 132)) = some (1, .ok, some 0x68)
    ∧ after (exec (.rxByte 0x21) { base with rxCnt := 33 }) (fun t => (t.rxCnt, t.rxTag, t.mem)) = some (33, .bufferOverrun, [])
    := by decide

/-- B1 and B2. -/
theorem test_rx_idle :
    after (exec .rxIdle (withScratch pollRun)) (fun t => (t.rxq, t.prx, t.rxCnt)) = some ([0], ⟨[true, false], [5, 0]⟩, 0)
    ∧ after (exec .rxIdle (withScratch pollRun)) (fun t => (t.prxTag, Memory.readN t.mem 0 5))
      = some ([.ok, .ok], some pollRun)
    ∧ after (exec .rxIdle base) (fun t => (t.rxq, t.prx, t.rxIn)) = some ([], base.prx, [.rxIdle]) := by decide

/-- B3, B4 and B7: the tag replaces an overrun. -/
theorem test_rx_parity_err :
    after (exec .rxParityErr (withScratch [0x68, 0x03, 0x18])) (fun t => (t.rxq, t.prx.len, t.prxTag, t.rxCnt, t.rxTag))
      = some ([0], [3, 0], [.parityError, .ok], 0, .ok)
    ∧ after (exec .rxParityErr { base with rxTag := .bufferOverrun }) (fun t => (t.rxq, t.prx.len, t.prxTag))
      = some ([0], [0, 0], [.parityError, .ok]) := by decide

/-- B8 and the queue-full branch of R156. -/
theorem test_frame_end_discards :
    after (exec (.frameEnd .ok) { exhausted with rxCnt := 2 }) (fun t => (t.rxq, t.rxCnt, t.prx)) = some ([], 0, exhausted.prx)
    ∧ after (exec (.frameEnd .ok) { withScratch pollRun with rxq := [0], cfg := { cfg2 with rxqCap := 1 } })
        (fun t => (t.rxq, t.rxCnt, t.prx)) = some ([0], 0, base.prx) := by decide

/-- R165: the example; P3 steps 2 and 4. -/
theorem test_rxt_step :
    after (exec .rxtStep (withRun .ok pollRun)) (fun t => (t.rxq, t.cmdq, t.prx.inUse)) = some ([], [.poll], [false, false])
    ∧ after (exec .rxtStep (withRun .parityError pollRun)) (fun t => (t.rxq, t.cmdq, t.prx.inUse)) = some ([], [], [false, false])
    ∧ after (exec .rxtStep (withRun .ok [0x68, 0x03, 0x18, 0x01, 0x73])) (fun t => (t.rxq, t.cmdq)) = some ([], [])
    := by decide

/-- R165: hold on a full `cmdq` only when there is a command. -/
theorem test_rxt_step_full :
    after (exec .rxtStep { withRun .ok pollRun with cmdq := [.stop, .play] }) (fun t => (t.rxq, t.cmdq, t.ret))
      = some ([0], [.stop, .play], .held)
    ∧ after (exec .rxtStep { withRun .bufferOverrun pollRun with cmdq := [.stop, .play] }) (fun t => (t.rxq, t.cmdq, t.ret))
      = some ([], [.stop, .play], .done) := by decide

/-- R167: the example and the hold. -/
theorem test_cmd_take :
    after (exec .cmdTake { base with cmdq := [.poll, .play] }) (fun t => (t.cmdq, t.cmdOut, t.ret))
      = some ([.play], [.poll], .command .poll)
    ∧ after (exec .cmdTake base) (fun t => t.ret) = some .held := by decide

/-- R183: the example; P6 step 3. -/
theorem test_tx_send :
    after (exec (.txSend 0x18 0x68 [0xAA]) base) (fun t => (t.txq, t.ptx, Memory.readN t.mem 66 5, t.ret))
      = some ([0], ⟨[true, false], [5, 0]⟩, some frameA, .queued)
    ∧ after (exec (.txSend 0x18 0x68 []) exhausted) (fun t => (t.txq, t.ret)) = some ([], .rejected)
    ∧ after (exec (.txSend 0x18 0x68 [0xAA]) exhausted) (fun t => (t.txq, t.ret)) = some ([], .held) := by decide

/-- R185: the example; X1, X2, X9. -/
theorem test_txt_start :
    after (exec .txtStart { pendingA with txq := [0, 1] }) (fun t => (t.txCur, t.txq, t.txs, t.dmaActive, t.lineOut))
      = some (0, [1], .sending, true, [.start 0])
    ∧ after (exec .txtStart { pendingA with cts := false }) (fun t => t.ret) = some .held
    ∧ after (exec .txtStart { pendingA with ctsFallPend := true }) (fun t => t.ret) = some .held
    ∧ after (exec .txtStart { pendingA with txs := .gap }) (fun t => t.ret) = some .held := by decide

/-- R186, R187: the examples. -/
theorem test_dma :
    after (exec .dmaByte (sendingA 0)) (fun t => (t.lineOut, t.dmaIdx)) = some ([.byte 0x18], 1)
    ∧ after (exec .dmaByte { sendingA 2 with cts := false }) (fun t => t.lineOut) = some [.byte 0x68]
    ∧ after (exec .dmaByte (sendingA 5)) (fun t => t.ret) = some .held
    ∧ after (exec .dmaComplete (sendingA 5)) (fun t => (t.dmaActive, t.txWake, t.lineOut)) = some (false, .done, [.complete])
    ∧ after (exec .dmaComplete (sendingA 4)) (fun t => t.ret) = some .held := by decide

/-- X3, X4, X10. -/
theorem test_cts_edges :
    after (exec .ctsFall base) (fun t => (t.cts, t.ctsFallPend, t.rxIn)) = some (false, false, [.ctsFall])
    ∧ after (exec .ctsFall (sendingA 2)) (fun t => (t.cts, t.ctsFallPend)) = some (false, true)
    ∧ after (exec .ctsRise { sendingA 2 with cts := false, ctsFallPend := true }) (fun t => (t.cts, t.ctsFallPend))
      = some (true, true) := by decide

/-- R190: the example; X5. -/
theorem test_arb_step :
    after (exec .arbStep { sendingA 2 with ctsFallPend := true }) (fun t => (t.ctsFallPend, t.dmaActive, t.txWake, t.lineOut))
      = some (false, false, .collision, [.abort 2])
    ∧ after (exec .arbStep { woken .done with ctsFallPend := true }) (fun t => (t.ctsFallPend, t.txWake, t.lineOut))
      = some (false, .done, []) := by decide

/-- X7: front, slot still in use. -/
theorem test_txt_wake_coll :
    after (exec .txtWakeColl (woken .collision)) (fun t => (t.txq, t.txs, t.txWake, t.ptx.inUse))
      = some ([0, 1], .idle, .none, [true, true])
    ∧ after (exec .txtWakeColl { woken .collision with cfg := { cfg2 with txqCap := 1 } }) (fun t => (t.txq, t.txs, t.ret))
      = some ([1], .sending, .held) := by decide

/-- X8 and R193. -/
theorem test_txt_wake_done_and_gap_end :
    after (exec .txtWakeDone (woken .done)) (fun t => (t.ptx.inUse, t.txs, t.txWake, t.txq)) = some ([false, true], .gap, .none, [1])
    ∧ after (exec .txtGapEnd { base with txs := .gap }) (fun t => t.txs) = some .idle
    ∧ after (exec .txtGapEnd base) (fun t => t.ret) = some .held := by decide

/-- R253, R262: a status sent is the frame of E9 in its slot. -/
theorem test_send_status :
    after (exec (.stCheckingfordisc cm2 0x01 .d2 true) base) (fun t => (t.txq, t.ptx.len, Memory.readN t.mem 66 12))
      = some ([0], [12, 0], some [0x18, 0x0A, 0x68, 0x39, 0x09, 0x02, 0x08, 0x01, 0x00, 0x02, 0x01, 0x42])
    ∧ after (exec (.sendStatus ⟨.pollResponse, cm2⟩) base) (fun t => Memory.readN t.mem 66 6)
      = some (some [0x18, 0x04, 0xFF, 0x02, 0x00, 0xE1]) := by decide

/-- R50, R62: a read of what nothing has written faults. -/
theorem test_unwritten_read_faults :
    faultOf (exec .rxtStep { base with rxq := [0], prx := ⟨[true, false], [5, 0]⟩ }) = some .unspecifiedRead
    ∧ faultOf (exec .rxtStep { base with rxq := [7] }) = some .outOfRange := by decide

/-! ### The step -/

/-- The word of `CDC_CHANGEDISC(6)` placed after reset: the next step delivers `ChangeDisc(6)`. -/
theorem test_step_runs_an_inbound_word :
    after (step (State.reset.withFetchWord 24 0x380606)) (fun t => (t.cmdq, t.rxq, t.prx.inUse))
      = some ([.changeDisc .d6], [], [false, false, false, false]) := by decide

/-- The `ST_*` rows' words with every operand byte 0 read as their own rows' messages (spec/30_encoding.md R111). -/
theorem test_outbound_zero_words :
    [0x3900000000000000, 0x3901000000000000, 0x3902000000000000, 0x3903000000000000, 0x3904000000000000, 0x3905000000000000,
      0x3906000000000000, 0x3908000000000000, 0x3909000000000000].map (decodeTableWord 64)
      = [.stStopped ⟨0, 0, 0, 0⟩, .stPaused ⟨0, 0, 0, 0⟩, .stPlaying ⟨0, 0, 0, 0⟩, .stFastplayingF ⟨0, 0, 0, 0⟩,
          .stFastplayingR ⟨0, 0, 0, 0⟩, .stSeekingF ⟨0, 0, 0, 0⟩, .stSeekingR ⟨0, 0, 0, 0⟩, .stLoadingdisc ⟨0, 0, 0, 0⟩,
          .stCheckingfordisc ⟨0, 0, 0, 0⟩ 0 .d1 false].map some := by decide

/-- Such a word placed after reset runs: the next step queues a frame. -/
theorem test_step_runs_an_outbound_zero_word :
    after (step (State.reset.withFetchWord 64 0x3900000000000000)) (fun t => t.txq) = some [0] := by decide

/-- The word of `ANNOUNCE` placed after reset: the next step queues its frame; slot 0 of PTX begins at 4 * 33. -/
theorem test_step_runs_an_outbound_word :
    after (step (State.reset.withFetchWord 16 0x0201)) (fun t => (t.txq, Memory.readN t.mem 132 6))
      = some ([0], some [0x18, 0x04, 0xFF, 0x02, 0x01, 0xE0]) := by decide

/-- R156, R352: a sub-step scheduled by itself does nothing. -/
theorem test_step_sub_steps_hold :
    after (step { withScratch pollRun with sched := [⟨0, .op (.frameEnd .ok)⟩] }) (fun t => (t.rxq, t.rxCnt, t.ret)) = some ([], 5, .held)
    ∧ after (step { base with sched := [⟨0, .op (.poolTryAlloc .prx)⟩] }) (fun t => (t.prx, t.ret)) = some (base.prx, .held) := by decide

/-- An inbound message that is not the one fetched does not run; with nothing scheduled nothing happens. -/
theorem test_step_message_is_fetched :
    after (step { withRun .ok pollRun with sched := [⟨0, .op (.cdcPlay 0x68 0x18 0)⟩] }) (fun t => (t.rxq, t.cmdq, t.ret))
      = some ([0], [], .held)
    ∧ after (step { withRun .ok pollRun with sched := [⟨0, .op (.poll 0x68 0x18)⟩] }) (fun t => (t.rxq, t.cmdq, t.ret))
      = some ([], [.poll], .done)
    ∧ nextOf (step base) = some base := by decide

/-! ### The host agent -/

/-- P1 step 1: `HOST_BOOT` queues the announcement. -/
theorem test_host_boot :
    after (hostExec .boot base) (fun t => (t.txq, t.announces, t.booted, Memory.readN t.mem 66 6))
      = some ([0], 1, true, some [0x18, 0x04, 0xFF, 0x02, 0x01, 0xE0]) := by decide

/-- R283, D34: a tick counts up; with the budget spent it holds. P1 step 9: the report left to be sent is sent. -/
theorem test_host_tick_and_resume :
    after (hostExec .announceTick { base with booted := true, announces := 1 }) (fun t => (t.txq, t.announces)) = some ([0], 2)
    ∧ after (hostExec .announceTick { base with cfg := { cfg2 with announceBudget := some 1 }, booted := true, announces := 1 })
      (fun t => (t.txq, t.ret)) = some ([], .held)
    ∧ after (hostExec .resume { base with hostPend := [.send .pollResponse] }) (fun t => (t.hostPend, Memory.readN t.mem 66 6))
      = some ([], some [0x18, 0x04, 0xFF, 0x02, 0x00, 0xE1]) := by decide

/-- P1 step 9: a poll connects and is answered. -/
theorem test_host_poll :
    after (hostExec .cmd { base with booted := true, cmdq := [.poll] }) (fun t => (t.cs.lifecycle, t.cmdOut, t.hostPend))
      = some (.connected, [.poll], [.send .pollResponse]) := by decide

/-- S4: the masks of bitmask 0b000101, 12 probes, then `Stopped`. -/
theorem test_host_enumeration :
    (enumerationActions 0b000101).filterMap (fun a => match a with
      | .send (.checkingForDisc m d failed) => some (m, d.toNat, failed)
      | _ => none)
    = [(0, 1, false), (1, 1, false), (1, 2, false), (1, 2, true), (1, 3, false), (5, 3, false), (5, 4, false), (5, 4, true),
       (5, 5, false), (5, 5, true), (5, 6, false), (5, 6, true)]
    ∧ (enumerationActions 0b000101).length = 14 := by decide

/-- R290, R291: no magazine, a magazine without discs, and 0x40. -/
theorem test_host_sensor :
    classifySensor 0 = .noMagazine ∧ classifySensor 0x80 = .noDiscs ∧ classifySensor 0x40 = .enumerating
    ∧ after (hostExec (.sensor 0x80) { base with booted := true }) (fun t => (t.cs.disc, t.cs.discBitmap, t.hostPend, t.engineOut))
      = some (.noDiscs, 0x80, [.send .stopped], [.stop]) := by decide

/-! ### Witnesses: for each statement with hypotheses, a state and operands that meet them -/

theorem inv_base : Inv base := inv_of_check (by decide)
theorem inv_withRun : Inv (withRun .ok pollRun) := inv_of_check (by decide)
theorem inv_withScratch : Inv (withScratch pollRun) := inv_of_check (by decide)
theorem inv_pendingA : Inv pendingA := inv_of_check (by decide)
theorem inv_sendingA : Inv (sendingA 2) := inv_of_check (by decide)
theorem inv_exhausted : Inv exhausted := inv_of_check (by decide)

/-- No slot of either pool of `exhausted` is free. -/
theorem exhausted_full (p : Pool) : ∀ i, i < exhausted.cfg.slotCount p → (exhausted.slots p).inUse[i]? ≠ some false := by
  cases p <;> decide

/-- The 33 bytes of vector B5, a full scratch buffer. -/
def fullScratch : State := withScratch ((List.range 33).map (BitVec.ofNat 8))

theorem witness_PoolAllocationClaimsOneFreeSlot :
    (∃ i, i < base.cfg.slotCount .prx ∧ (base.slots .prx).inUse[i]? = some false)
    ∧ (∃ i, i < base.cfg.slotCount .ptx ∧ (base.slots .ptx).inUse[i]? = some false)
    ∧ (∀ p i, i < exhausted.cfg.slotCount p → (exhausted.slots p).inUse[i]? ≠ some false) :=
  ⟨⟨1, by decide, by decide⟩, ⟨1, by decide, by decide⟩, exhausted_full⟩

theorem witness_EveryFreeSlotCanBeAllocated : 1 < base.cfg.slotCount .ptx ∧ (base.slots .ptx).inUse[1]? = some false := by decide

theorem witness_PoolFreeClearsOnlyARecognisedSlot :
    1 < exhausted.cfg.nRx ∧ 1 < exhausted.cfg.nTx ∧ (Pool.prx ≠ Pool.ptx ∨ exhausted.cfg.slotCount .ptx ≤ 0)
    ∧ (Pool.ptx ≠ Pool.ptx ∨ exhausted.cfg.slotCount .ptx ≤ 2) := by decide

theorem witness_AllocatedHandleWasLiveNowhere :
    Inv base ∧ (∃ t, exec (.poolAlloc .prx) base = .next t ∧ t.ret = .handle ⟨.prx, 0⟩)
    ∧ (∃ t, exec (.poolTryAlloc .ptx) base = .next t ∧ t.ret = .tryHandle (some ⟨.ptx, 0⟩)) :=
  ⟨inv_base, ⟨_, rfl, by decide⟩, ⟨_, rfl, by decide⟩⟩

theorem witness_RxByteStoresOrMarksTheOverrun :
    ({ fullScratch with rxCnt := 32 } : State).rxCnt < fullScratch.cfg.rxCap ∧ fullScratch.cfg.rxCap ≤ fullScratch.rxCnt := by
  decide

theorem witness_FrameEndQueuesOrDiscardsTheRun_queues :
    fullScratch.rxCnt ≤ fullScratch.cfg.rxCap ∧ fullScratch.cfg.rxCap ≤ fullScratch.cfg.slotBytes
    ∧ Memory.readN fullScratch.mem (rxBufBase fullScratch.cfg) fullScratch.rxCnt = some ((List.range 33).map (BitVec.ofNat 8))
    ∧ fullScratch.rxq.length < fullScratch.cfg.rxqCap
    ∧ ∃ i, i < fullScratch.cfg.nRx ∧ fullScratch.prx.inUse[i]? = some false :=
  ⟨by decide, by decide, by decide, by decide, 1, by decide, by decide⟩

theorem witness_FrameEndQueuesOrDiscardsTheRun_discards :
    (∀ i, i < exhausted.cfg.nRx → exhausted.prx.inUse[i]? ≠ some false)
    ∧ ({ base with rxq := [0, 1] } : State).cfg.rxqCap ≤ ({ base with rxq := [0, 1] } : State).rxq.length :=
  ⟨exhausted_full .prx, by decide⟩

theorem witness_IdleAndParityErrorEndTheFrame :
    (base.rxCnt ≤ base.cfg.rxCap ∧ base.cfg.rxCap ≤ base.cfg.slotBytes ∧ written base.mem (rxBufBase base.cfg) base.rxCnt
      ∧ base.rxCnt = 0 ∧ base.rxTag = .ok)
    ∧ (fullScratch.rxCnt ≤ fullScratch.cfg.rxCap ∧ fullScratch.cfg.rxCap ≤ fullScratch.cfg.slotBytes
      ∧ written fullScratch.mem (rxBufBase fullScratch.cfg) fullScratch.rxCnt ∧ 0 < fullScratch.rxCnt) := by
  unfold written; decide

theorem witness_ReceiveInterruptsNeverHold : Inv exhausted ∧ ∃ i, i = Instr.rxParityErr := ⟨inv_exhausted, _, rfl⟩

theorem witness_FrameValidateTestsCountXorAndLength : base.cfg.wf = true := by decide

theorem witness_FrameParseReadsTheFields :
    frameValidate base.cfg (0x68 :: 0x03 :: 0x18 :: ([0x01] ++ [0x72])) = true
    ∧ frameValidate base.cfg (0x68 :: 0x02 :: 0x18 :: ([] ++ [0x72])) = true := by decide

theorem witness_SingleByteCorruptionIsDetected :
    frameValidate cfg2 pollRun = true ∧ 4 < pollRun.length ∧ pollRun[4]? ≠ some 0x73 := by decide

theorem witness_BackToBackFramesAreDropped :
    cfg2.wf = true ∧ cfg2.lenCheck = .strict ∧ frameValidate cfg2 pollRun = true ∧ frameValidate cfg2 playRun = true := by decide

theorem witness_RxtStepDropsDeliversOrHolds_empty : base.rxq = [] := rfl

/-- The common hypotheses, on a run of each tag and with `cmdq` empty and full. -/
theorem witness_RxtStepDropsDeliversOrHolds : ∀ tag ∈ [Tag.ok, .parityError, .bufferOverrun], ∀ q ∈ [[], [TypedCommand.stop, .play]],
    let s : State := { withRun tag pollRun with cmdq := q }
    s.cfg.wf = true ∧ s.rxq = 0 :: [] ∧ 0 < s.cfg.nRx ∧ s.prxTag[0]? = some tag ∧ s.prx.len[0]? = some 5 ∧ 5 ≤ s.cfg.slotBytes
    ∧ Memory.readN s.mem (slotBase s.cfg .prx 0) 5 = some pollRun := by decide

theorem witness_RxtStepDropsDeliversOrHolds_clauses :
    (Tag.parityError ≠ .ok ∨ frameValidate cfg2 pollRun = false) ∧ (cmdDecodeSpec cfg2 pollRun = none ∨ base.cmdq.length < 2)
    ∧ cmdDecodeSpec cfg2 pollRun ≠ none
    ∧ ({ base with cmdq := [TypedCommand.stop, .play] } : State).cfg.cmdqCap ≤ [TypedCommand.stop, .play].length := by decide

theorem witness_CmdTakeTakesTheOldestCommand :
    ({ base with cmdq := [.poll, .play] } : State).cmdq = .poll :: [.play] ∧ base.cmdq = [] := by decide

theorem witness_CmdDecodeIsTheDecisionTree : base.cfg.wf = true := by decide

theorem witness_InvalidRunsAndEchoesDecodeToNone :
    frameValidate base.cfg [0x68, 0x03, 0x18, 0x01, 0x73] = false
    ∧ ([0x18, 0x05, 0x68, 0x38, 0x03, 0x00, 0x4E] : List Byte).getD 0 0 = base.cfg.selfAddr := by decide

/-- The hypotheses that the statements about inbound messages share. -/
theorem witness_inbound_messages :
    let s := withRun .ok pollRun
    s.cfg.wf = true ∧ (0x68 : Byte) ≠ s.cfg.selfAddr ∧ s.cfg.ours 0xBF = true ∧ s.rxq = 0 :: [] ∧ 0 < s.cfg.nRx
    ∧ s.cmdq.length < s.cfg.cmdqCap := by decide

theorem witness_TrafficAndPollDecodeAndDeliver :
    let f : List Byte := [0x50, 0x04, 0x68, 0x32, 0x11, 0x1F]
    frameValidate cfg2 f = true ∧ f.getD 0 0 ≠ cfg2.selfAddr ∧ cfg2.ours (f.getD 2 0) = false := by decide

theorem witness_PlainCommandsDecodeAndDeliver : (1 : Byte) = 0 ∨ (1 : Byte) = 1 := by decide

theorem witness_ChangeDiscDecodesOneToSix :
    (1 : Byte).toNat = Disc.d1.toNat ∧ (6 : Byte).toNat = Disc.d6.toNat ∧ ((0 : Byte).toNat = 0 ∨ 7 ≤ (0 : Byte).toNat)
    ∧ ((7 : Byte).toNat = 0 ∨ 7 ≤ (7 : Byte).toNat) := by decide

theorem witness_StepRunsTheDecodedInstruction_fetched :
    let s : State := { withRun .ok pollRun with sched := [⟨1, .op .rxtStep⟩] }
    s.cfg.wf = true ∧ s.sched = ⟨1, .op .rxtStep⟩ :: [] ∧ s.rxq = 0 :: [] ∧ s.prxTag[0]? = some .ok ∧ s.prx.len[0]? = some 5
    ∧ 0 < s.cfg.nRx ∧ 5 ≤ s.cfg.slotBytes ∧ Memory.readN s.mem (slotBase s.cfg .prx 0) 5 = some pollRun
    ∧ (decode s.cfg pollRun).toOption = some (.poll 0x68 0x18) := by decide

theorem witness_StepRunsTheDecodedInstruction_scheduled :
    let s (i : Instr) : State := { withRun .ok pollRun with sched := [⟨1, .op i⟩] }
    ((s .dmaByte).sched = ⟨1, .op .dmaByte⟩ :: [] ∧ isInbound .dmaByte = false ∧ isSubStep .dmaByte = false)
    ∧ ((s (.frameEnd .ok)).sched = ⟨1, .op (.frameEnd .ok)⟩ :: [] ∧ isSubStep (.frameEnd .ok) = true)
    ∧ ((s (.cdcPlay 0x68 0x18 0)).sched = ⟨1, .op (.cdcPlay 0x68 0x18 0)⟩ :: [] ∧ isInbound (.cdcPlay 0x68 0x18 0) = true
      ∧ fetchMessage (s (.cdcPlay 0x68 0x18 0)) ≠ some (.cdcPlay 0x68 0x18 0))
    ∧ ((s (.poll 0x68 0x18)).sched = ⟨1, .op (.poll 0x68 0x18)⟩ :: []
      ∧ fetchMessage (s (.poll 0x68 0x18)) = some (.poll 0x68 0x18)) := by decide

theorem witness_DecodeOfEncodedMessageIsTheMessage :
    cfg2.wf = true ∧ isInbound (.cdcPlay 0x68 0x18 0) = true ∧ WellFormed cfg2 (.cdcPlay 0x68 0x18 0) = true
    ∧ encode cfg2 (.cdcPlay 0x68 0x18 0) = some playRun := by decide

theorem witness_EncodeOfDecodedRunIsTheRun :
    cfg2.wf = true ∧ cfg2.lenCheck = .strict ∧ playRun.length ≤ 33 ∧ (decode cfg2 playRun).toOption = some (.cdcPlay 0x68 0x18 0) := by
  decide

theorem witness_OutboundPayloadReadsBack :
    cfg2.template = Templates.default ∧ statusOf (.stPlaying cm3) = some ⟨.playing, cm3⟩ := by decide

theorem witness_FramePopulateBuildsTheImage :
    base.cfg.wf = true ∧ (([] : List Byte).length = 0 ∨ 20 < ([] : List Byte).length)
    ∧ ((List.replicate 21 (0 : Byte)).length = 0 ∨ 20 < (List.replicate 21 (0 : Byte)).length)
    ∧ (1 ≤ [(0 : Byte)].length ∧ [(0 : Byte)].length ≤ 20)
    ∧ (1 ≤ (List.replicate 20 (0 : Byte)).length ∧ (List.replicate 20 (0 : Byte)).length ≤ 20) := by decide

theorem witness_PopulatedFramesAreValidAndParseBack : cfg2.wf = true ∧ framePopulate cfg2 0x18 0x68 [0xAA] = some frameA := by decide

/-- A free PTX slot and room, for `TX_SEND`, `SEND_STATUS` and the outbound messages; and neither. -/
theorem witness_can_queue : base.cfg.wf = true ∧ CanQueue base ∧ ¬ CanQueue exhausted :=
  ⟨by decide, ⟨by decide, 1, by decide, by decide⟩, fun ⟨_, i, hi, hf⟩ => exhausted_full .ptx i hi hf⟩

theorem witness_TxSendRejectsQueuesOrHolds : exhausted.cfg.wf = true ∧ 1 ≤ [(0xAA : Byte)].length ∧ [(0xAA : Byte)].length ≤ 20 := by
  decide

theorem witness_TxtStartBeginsTheHeadFrame :
    (pendingA.txs = .idle ∧ pendingA.txq = 0 :: [] ∧ pendingA.cts = true ∧ pendingA.ctsFallPend = false)
    ∧ (sendingA 2).txs ≠ .idle ∧ base.txq = [] ∧ ({ pendingA with cts := false } : State).cts = false
    ∧ ({ pendingA with ctsFallPend := true } : State).ctsFallPend = true := by decide

theorem witness_DmaByteMovesTheNextByte :
    ((sendingA 4).dmaActive = true ∧ (sendingA 4).ptx.len[(sendingA 4).txCur]? = some 5 ∧ (sendingA 4).dmaIdx < 5
      ∧ (sendingA 4).txCur < (sendingA 4).cfg.nTx ∧ 5 ≤ (sendingA 4).cfg.slotBytes
      ∧ Memory.read (sendingA 4).mem (slotBase (sendingA 4).cfg .ptx (sendingA 4).txCur + (sendingA 4).dmaIdx) = some 0xD9)
    ∧ base.dmaActive = false ∧ ((sendingA 5).ptx.len[(sendingA 5).txCur]? = some 5 ∧ 5 ≤ (sendingA 5).dmaIdx) := by decide

theorem witness_DmaCompletePostsDone :
    ((sendingA 5).ptx.len[(sendingA 5).txCur]? = some 5 ∧ (sendingA 5).dmaActive = true ∧ (sendingA 5).dmaIdx = 5)
    ∧ ((woken .done).ptx.len[(woken .done).txCur]? = some 5 ∧ (woken .done).dmaActive = false)
    ∧ ((sendingA 4).ptx.len[(sendingA 4).txCur]? = some 5 ∧ (sendingA 4).dmaIdx ≠ 5) := by decide

theorem witness_CtsEdgesMoveTheLevel : (sendingA 2).cts = true ∧ ({ base with cts := false } : State).cts = false := by decide

theorem witness_ArbStepAbortsOnlyAnActiveTransfer :
    (({ sendingA 2 with ctsFallPend := true } : State).ctsFallPend = true ∧ (sendingA 2).dmaActive = true)
    ∧ (({ woken .done with ctsFallPend := true } : State).ctsFallPend = true ∧ (woken .done).dmaActive = false)
    ∧ base.ctsFallPend = false := by decide

theorem witness_TxtWakeCollRequeuesAtTheFront :
    ((woken .collision).txs = .sending ∧ (woken .collision).txWake = .collision
      ∧ (woken .collision).txq.length < (woken .collision).cfg.txqCap)
    ∧ base.txs ≠ .sending ∧ (woken .done).txWake ≠ .collision
    ∧ ({ woken .collision with cfg := { cfg2 with txqCap := 1 } } : State).cfg.txqCap ≤ (woken .collision).txq.length := by decide

theorem witness_TxtWakeDoneFreesTheSlot :
    ((woken .done).txs = .sending ∧ (woken .done).txWake = .done ∧ (woken .done).txCur < (woken .done).cfg.nTx)
    ∧ base.txs ≠ .sending ∧ (woken .collision).txWake ≠ .done := by decide

theorem witness_TxtWakeDoneFreesTheSlot_only :
    ∃ t, exec .txtWakeDone (woken .done) = .next t ∧ (woken .done).ptx.inUse[0]? = some true ∧ t.ptx.inUse[0]? = some false :=
  ⟨_, rfl, by decide, by decide⟩

theorem witness_TxtGapEndReturnsToIdle : ({ base with txs := .gap } : State).txs = .gap ∧ base.txs ≠ .gap := by decide

/-- The states of a run that ends the gap and then, with nothing pending, attempts the same for ever. -/
def gapRun : Nat → State
  | 0 => { base with txs := .gap }
  | 1 => { base with ret := .done }
  | _ + 2 => { base with ret := .held }

/-- It is a run, weakly fair towards `TXT`: from its second state on no operation of `TXT` is enabled. -/
theorem witness_TxtGapEndReturnsToIdle_fair :
    InfiniteRun gapRun (fun _ => ⟨0, .op .txtGapEnd⟩) ∧ WeaklyFair (fun g => g = .txt) gapRun (fun _ => ⟨0, .op .txtGapEnd⟩)
    ∧ (gapRun 0).txs = .gap := by
  refine ⟨fun n => ?_, fun g a n hg ha hen => ?_, rfl⟩
  · match n with
    | 0 => rfl
    | 1 => rfl
    | _ + 2 => rfl
  · obtain ⟨t, ht, hr⟩ := hen (n + 2) (by omega)
    subst hg
    cases a with
    | host h => cases ha
    | op i =>
      cases i <;> simp [agentOfAction, agentOf] at ha <;>
        (obtain rfl : { base with ret := .held } = t := by
          simpa [gapRun] using (Host.Outcome.next.inj ht)
         exact absurd rfl hr)

theorem witness_TrackConversionFoldsAndPacks : 1 ≤ (1 : Fin 100).val := by decide

theorem witness_StatusEncodeSubstitutesTheTemplate :
    base.cfg.template.get Variant.playing.case = Templates.default.playing
    ∧ ∀ m d x, Variant.playing ≠ .checkingForDisc m d x := ⟨rfl, fun _ _ _ h => nomatch h⟩

theorem witness_SendStatusQueuesOrHolds :
    Returns base (exec (.statusEncode ⟨.announce, cm2⟩) base) (.encoded 0xFF [0x02, 0x01]) := by
  unfold Returns; rfl

/-- Reset is quiescent, and an input event is enabled in it. -/
theorem witness_ResetLeavesTheTableOfValues : Quiescent base ∧ Enabled (.op .rxIdle) base :=
  ⟨⟨rfl, rfl, rfl, rfl, rfl, rfl, rfl, rfl, rfl, fun p i => by
    cases p <;> match i with
      | 0 => decide
      | 1 => decide
      | _ + 2 => exact fun h => nomatch h⟩, _, rfl, by decide⟩

theorem witness_ResetMeetsTheRunInvariant : cfg2.wf = true ∧ Cfg.default.wf = true := by decide

theorem witness_EveryStepKeepsTheRunInvariant :
    ∃ s t : State, Inv s ∧ NextDisciplined s ∧ step s = .next t ∧ s.sched ≠ [] :=
  ⟨{ exhausted with sched := [⟨0, .op (.poolFree .ptx ⟨.ptx, 1⟩)⟩] }, _, inv_of_check (by decide), by
    intro _; decide, rfl, by decide⟩

theorem witness_NoStepFromTheRunInvariantStops : Inv { woken .collision with sched := [⟨0, .op .txtWakeColl⟩] } :=
  inv_of_check (by decide)

/-- A collision with the pending queue full is a state of the invariant too. -/
theorem witness_NoStepFromTheRunInvariantStops_full :
    let s : State := { woken .collision with cfg := { cfg2 with txqCap := 1 }, sched := [⟨0, .op .txtWakeColl⟩] }
    Inv s ∧ s.cfg.txqCap ≤ s.txq.length := ⟨inv_of_check (by decide), by decide⟩

theorem witness_FreeSlotMeansRoomInItsQueue :
    (Inv (withRun .ok pollRun) ∧ (withRun .ok pollRun).cfg.nRx ≤ (withRun .ok pollRun).cfg.rxqCap
      ∧ ∃ i, i < (withRun .ok pollRun).cfg.nRx ∧ (withRun .ok pollRun).prx.inUse[i]? = some false)
    ∧ (Inv pendingA ∧ pendingA.cfg.nTx ≤ pendingA.cfg.txqCap ∧ ∃ i, i < pendingA.cfg.nTx ∧ pendingA.ptx.inUse[i]? = some false)
    ∧ (Inv (sendingA 2) ∧ (sendingA 2).cfg.nTx ≤ (sendingA 2).cfg.txqCap ∧ (sendingA 2).txs = .sending) :=
  ⟨⟨inv_withRun, by decide, 1, by decide, by decide⟩, ⟨inv_pendingA, by decide, 1, by decide, by decide⟩,
    inv_sendingA, by decide, by decide⟩

/-- A step that completes a transfer, and one that begins it. -/
theorem witness_PendingTransmissionsKeepTheirOrder :
    (∃ t, Inv { sendingA 5 with sched := [⟨0, .op .dmaComplete⟩] }
      ∧ step { sendingA 5 with sched := [⟨0, .op .dmaComplete⟩] } = .next t ∧ t.lineOut = [.complete])
    ∧ (∃ t, Inv { pendingA with sched := [⟨0, .op .txtStart⟩] }
      ∧ step { pendingA with sched := [⟨0, .op .txtStart⟩] } = .next t ∧ t.lineOut = [.start 0]) :=
  ⟨⟨_, inv_of_check (by decide), rfl, by decide⟩, ⟨_, inv_of_check (by decide), rfl, by decide⟩⟩

theorem witness_SequencerMovesOnlyByTheFourTransitions :
    ∃ t, step { pendingA with sched := [⟨0, .op .txtStart⟩] } = .next t ∧ t.txs ≠ pendingA.txs := ⟨_, rfl, by decide⟩

theorem witness_ConfigurationIsFixedAndHistoriesGrow :
    ∃ t, step { sendingA 2 with sched := [⟨0, .op .dmaByte⟩] } = .next t ∧ t.lineOut ≠ (sendingA 2).lineOut := ⟨_, rfl, by decide⟩

theorem witness_InterruptContextLeavesTaskStateAlone :
    ∃ t, exec .rxIdle (withScratch pollRun) = .next t ∧ slotBase base.cfg .ptx 0 ≤ 66 ∧ 66 < rxBufBase base.cfg :=
  ⟨_, rfl, by decide, by decide⟩

theorem witness_QueuedTransmitSlotsAreNeverWritten :
    ∃ s t : State, Inv s ∧ step s = .next t ∧ 1 ∈ inFlight s ++ s.txq ∧ 0 ∈ inFlight s ++ s.txq ∧ 32 < s.cfg.slotBytes :=
  ⟨{ sendingA 2 with sched := [⟨0, .op .dmaByte⟩] }, _, inv_of_check (by decide), rfl, by decide, by decide, by decide⟩

/-- Frame A pending, alone, with the schedule of its whole transfer. -/
theorem witness_UninterruptedTransferSendsTheWholeFrame :
    let s : State := { pendingA with
      sched := entries 0 (.txtStart :: List.replicate 5 .dmaByte ++ [.dmaComplete, .txtWakeDone, .txtGapEnd]) ++ [] }
    Inv s ∧ s.txs = .idle ∧ s.cts = true ∧ s.ctsFallPend = false ∧ s.txq = 0 :: [] ∧ s.ptx.len[0]? = some 5
    ∧ Memory.readN s.mem (slotBase s.cfg .ptx 0) 5 = some frameA :=
  ⟨inv_of_check (by decide), by decide, by decide, by decide, by decide, by decide, by decide⟩

/-- The same with a collision after two bytes. -/
theorem witness_CollisionPutsTheFrameBackInFront :
    let s : State := { pendingA with
      sched := entries 0 (.txtStart :: List.replicate 2 .dmaByte ++ [.ctsFall, .arbStep, .txtWakeColl, .ctsRise]) ++ [] }
    Inv s ∧ s.txs = .idle ∧ s.cts = true ∧ s.ctsFallPend = false ∧ s.txq = 0 :: [] ∧ s.ptx.len[0]? = some 5 ∧ 2 ≤ 5
    ∧ Memory.readN s.mem (slotBase s.cfg .ptx 0) 5 = some frameA :=
  ⟨inv_of_check (by decide), by decide, by decide, by decide, by decide, by decide, by decide, by decide⟩

/-- Vector C1's poll, byte by byte, after reset. -/
theorem witness_ReceivedMessageReachesTheHost :
    let s : State := { base with sched := entries 0 (pollRun.map .rxByte ++ [.rxIdle, .rxtStep]) ++ [] }
    Inv s ∧ s.rxCnt = 0 ∧ s.rxTag = .ok ∧ s.rxq = [] ∧ (∃ j, j < s.cfg.nRx ∧ s.prx.inUse[j]? = some false)
    ∧ s.cmdq.length < s.cfg.cmdqCap ∧ isInbound (.poll 0x68 0x18) = true ∧ WellFormed s.cfg (.poll 0x68 0x18) = true
    ∧ encode s.cfg (.poll 0x68 0x18) = some pollRun ∧ pollRun.length ≤ s.cfg.rxCap :=
  ⟨inv_of_check (by decide), by decide, by decide, by decide, ⟨1, by decide, by decide⟩, by decide, by decide, by decide, by decide,
    by decide⟩

theorem witness_HostCommandUpdatesForwardsAndReports :
    ({ base with booted := true, cmdq := [.poll] } : State).booted = true
    ∧ ({ base with booted := true, cmdq := [.poll] } : State).hostPend = []
    ∧ ({ base with booted := true, cmdq := [.poll] } : State).cmdq = .poll :: [] := by decide

theorem witness_ConnectionIsForEver :
    (∃ t, step { base with cs := connect base.cs, sched := [⟨0, .op .rxIdle⟩] } = .next t)
    ∧ (∃ t, hostExec .cmd { base with booted := true, cmdq := [.traffic] } = .next t ∧ t.ret = .done)
    ∧ (connect base.cs).lifecycle = .connected := ⟨⟨_, rfl⟩, ⟨_, rfl, by decide⟩, by decide⟩

/-- The booting and the ticking host: with a slot and budget left, with no slot, with a command waiting, with the budget spent. -/
theorem witness_ConnectionIsForEver_announces :
    (base.cfg.wf = true ∧ base.booted = false ∧ CanQueue base)
    ∧ (({ base with booted := true } : State).booted = true ∧ base.hostPend = [] ∧ base.cs.lifecycle = .notConnected ∧ base.cmdq = []
      ∧ base.cfg.announceBudget = none ∧ CanQueue { base with booted := true })
    ∧ ((∃ n, ({ cfg2 with announceBudget := some 2 } : Cfg).announceBudget = some n ∧ 1 < n)
      ∧ ∃ n, ({ cfg2 with announceBudget := some 2 } : Cfg).announceBudget = some n ∧ n ≤ 2)
    ∧ ¬ CanQueue exhausted ∧ ({ base with cmdq := [.poll] } : State).cmdq ≠ [] :=
  ⟨⟨by decide, by decide, witness_can_queue.2.1⟩,
    ⟨rfl, rfl, rfl, rfl, rfl, witness_can_queue.2.1⟩, ⟨⟨2, rfl, by decide⟩, 2, rfl, by decide⟩, witness_can_queue.2.2, by decide⟩

theorem witness_SensorClassifiesAndEnumerates :
    ({ base with booted := true } : State).booted = true ∧ base.hostPend = []
    ∧ ((0x80 : Byte) = 0 ∨ ((0x80 : Byte).getLsbD 7 = true ∧ (0x80 : Byte) &&& 0x3F = 0))
    ∧ ¬ ((0x05 : Byte) = 0 ∨ ((0x05 : Byte).getLsbD 7 = true ∧ (0x05 : Byte) &&& 0x3F = 0)) := by decide

theorem witness_EnumerationEndsAtDiscTwoTrackOne :
    ({ base with hostPend := [.finishEnumeration 5, .send .stopped] } : State).hostPend = .finishEnumeration 5 :: [.send .stopped]
    ∧ base.hostPend = [] := ⟨rfl, rfl⟩

/-- A report left to be sent, of either kind, with room for its frame and without. -/
theorem witness_EnumerationEndsAtDiscTwoTrackOne_sends :
    (let s : State := { base with hostPend := [.send .stopped] }
     s.cfg.wf = true ∧ s.hostPend = .send .stopped :: [] ∧ CanQueue s)
    ∧ (let s : State := { exhausted with hostPend := [.sendExact ⟨.announce, cm2⟩] }
       s.cfg.wf = true ∧ s.hostPend = .sendExact ⟨.announce, cm2⟩ :: [] ∧ ¬ CanQueue s) :=
  ⟨⟨by decide, rfl, witness_can_queue.2.1⟩, by decide, rfl, witness_can_queue.2.2⟩

end Sys2Proof.Tests
end

/-! ### PROOFS. The receive framer (spec/41_rx_framer.md): the checksum, the parse of a valid run and the host's take -/

namespace Sys2Proof.Machine

/-! The checksum's algebra: every law of `xor8` follows from its value on an append. -/

@[simp] theorem xor8_nil : xor8 [] = 0 := rfl

/-- The equation R160 gives for one more byte at the end. -/
@[simp] theorem xor8_concat (bs : List Byte) (b : Byte) : xor8 (bs ++ [b]) = xor8 bs ^^^ b := by
  simp only [xor8, List.foldl_append, List.foldl_cons, List.foldl_nil]

theorem xor8_append (bs cs : List Byte) : xor8 (bs ++ cs) = xor8 bs ^^^ xor8 cs := by
  induction cs using List.reverseRecOn with
  | nil => simp
  | append_singleton cs c ih => rw [← List.append_assoc, xor8_concat, ih, xor8_concat, BitVec.xor_assoc]

theorem xor8_cons (b : Byte) (bs : List Byte) : xor8 (b :: bs) = b ^^^ xor8 bs := by
  calc xor8 (b :: bs) = xor8 [b] ^^^ xor8 bs := xor8_append [b] bs
    _ = b ^^^ xor8 bs := by rw [show xor8 [b] = b from BitVec.zero_xor]

/-- The order of the bytes does not matter: each swap of neighbours is commutativity. -/
theorem xor8_eq_of_perm {bs cs : List Byte} (h : bs.Perm cs) : xor8 bs = xor8 cs := by
  induction h with
  | nil => rfl
  | cons b _ ih => rw [xor8_cons, xor8_cons, ih]
  | swap b c bs =>
    simp only [xor8_cons]
    rw [← BitVec.xor_assoc, BitVec.xor_comm c b, BitVec.xor_assoc]
  | trans _ _ ih₁ ih₂ => exact ih₁.trans ih₂

theorem exec_xor8 (bs : List Byte) (s : State) : Returns s (exec (.xor8 bs) s) (.byte (xor8 bs)) := rfl

/-- Settles O9: the checksum's laws, at the value `XOR8` returns. -/
theorem xor8IsTheExclusiveOrOfAllBytes : Obligations.Xor8IsTheExclusiveOrOfAllBytes := by
  intro bs cs b s
  refine ⟨exec_xor8 [] s, xor8 bs, exec_xor8 bs s, ?append, ?selfInverse, ?permuted⟩
  case append => simpa using exec_xor8 (bs ++ [b]) s
  case selfInverse => simpa using exec_xor8 (bs ++ [xor8 bs]) s
  case permuted =>
    intro hperm
    rw [exec_xor8 cs s, exec_xor8 bs s, xor8_eq_of_perm hperm]

/-! The parse of a run in the layout `[source, length, destination] ++ payload ++ [checksum]` (R162). -/

theorem payloadOf_layout (src len dst ck : Byte) (p : List Byte) :
    payloadOf (src :: len :: dst :: (p ++ [ck])) = p := by
  have hrun : src :: len :: dst :: (p ++ [ck]) = (src :: len :: dst :: p) ++ [ck] := rfl
  rw [payloadOf, hrun, ← List.dropLast_eq_take, List.dropLast_concat]
  rfl

theorem byteAt_last (f : List Byte) (ck : Byte) : byteAt (f ++ [ck]) ((f ++ [ck]).length - 1) = ck := by
  simp [byteAt]

theorem parseFrame_layout (src len dst ck : Byte) (p : List Byte) :
    parseFrame (src :: len :: dst :: (p ++ [ck])) = ⟨src, len, dst, p, ck⟩ := by
  have hchecksum : byteAt (src :: len :: dst :: (p ++ [ck])) ((src :: len :: dst :: (p ++ [ck])).length - 1) = ck :=
    byteAt_last (src :: len :: dst :: p) ck
  rw [parseFrame, payloadOf_layout, hchecksum]
  rfl

theorem frameParse_of_valid {c : Cfg} {f : List Byte} (h : frameValidate c f = true) : frameParse c f = parseFrame f :=
  if_pos h

theorem exec_frameParse (f : List Byte) (s : State) :
    Returns s (exec (.frameParse f) s) (.frame (frameParse s.cfg f)) := rfl

/-- Settles O11: a valid run is parsed by its indices, which the layout puts on its five fields. -/
theorem frameParseReadsTheFields : Obligations.FrameParseReadsTheFields := by
  intro s src len dst ck p hvalid
  have hparse := exec_frameParse (src :: len :: dst :: (p ++ [ck])) s
  rwa [frameParse_of_valid hvalid, parseFrame_layout] at hparse

/-! `CMD_TAKE` (R167), an equation for each shape of `cmdq`. -/

theorem exec_cmdTake_cons {s : State} {c : TypedCommand} {rest : List TypedCommand} (h : s.cmdq = c :: rest) :
    exec .cmdTake s = .next { s with cmdq := rest, cmdOut := s.cmdOut ++ [c], ret := .command c } := by
  change execCmdTake s = _
  simp only [execCmdTake, h, finish]

theorem exec_cmdTake_nil {s : State} (h : s.cmdq = []) : Holds s (exec .cmdTake s) := by
  change execCmdTake s = _
  simp only [execCmdTake, h, hold, finish]

/-- Settles O15: the two equations of `CMD_TAKE`. -/
theorem cmdTakeTakesTheOldestCommand : Obligations.CmdTakeTakesTheOldestCommand :=
  fun _ _ _ => ⟨exec_cmdTake_cons, exec_cmdTake_nil⟩

end Sys2Proof.Machine

/-! ### PROOFS. The transmitter (spec/42_tx_transmitter.md): the framing encoder and the edges of CTS -/

namespace Sys2Proof.Machine

/-! What R8 gives and `Cfg.wf` tests, of the constants the framing encoder reads. -/

theorem maxPayloadTx_of_wf {c : Cfg} (h : c.wf = true) : c.maxPayloadTx = 20 := by
  simp only [Cfg.wf, Cfg.givenOk, Bool.and_eq_true, beq_iff_eq] at h
  omega

theorem lenBias_of_wf {c : Cfg} (h : c.wf = true) : c.lenBias = 2 := by
  simp only [Cfg.wf, Cfg.givenOk, Bool.and_eq_true, beq_iff_eq] at h
  omega

/-! `FRAME_POPULATE` (R181): the image is the spec's layout, and the two lengths at which it is rejected. -/

theorem frameImage_of_wf {c : Cfg} (h : c.wf = true) (src dst : Byte) (p : List Byte) :
    frameImage c src dst p = imageSpec src dst p := by
  have hhead : frameHead c src dst p = src :: BitVec.ofNat 8 (p.length + 2) :: dst :: p := by
    rw [frameHead, lenBias_of_wf h]
    rfl
  rw [frameImage, hhead]
  rfl

theorem framePopulate_of_bad_length {c : Cfg} (h : c.wf = true) (src dst : Byte) {p : List Byte}
    (hp : p.length = 0 ∨ 20 < p.length) : framePopulate c src dst p = none :=
  if_pos (by rwa [maxPayloadTx_of_wf h])

theorem framePopulate_of_good_length {c : Cfg} (h : c.wf = true) (src dst : Byte) {p : List Byte}
    (hp : 1 ≤ p.length ∧ p.length ≤ 20) : framePopulate c src dst p = some (imageSpec src dst p) := by
  have hbad : ¬ (p.length = 0 ∨ c.maxPayloadTx < p.length) := by
    rw [maxPayloadTx_of_wf h]
    omega
  rw [framePopulate, if_neg hbad, frameImage_of_wf h]

theorem exec_framePopulate (src dst : Byte) (p : List Byte) (s : State) :
    Returns s (exec (.framePopulate src dst p) s) (.image (framePopulate s.cfg src dst p)) := rfl

/-- Settles O28: the operation returns `framePopulate`'s value, which the payload's length decides. -/
theorem framePopulateBuildsTheImage : Obligations.FramePopulateBuildsTheImage := by
  intro s src dst p hwf
  have hret := exec_framePopulate src dst p s
  constructor
  · intro hp
    rwa [framePopulate_of_bad_length hwf src dst hp] at hret
  · intro hp
    rwa [framePopulate_of_good_length hwf src dst hp] at hret

/-! The edges of CTS (R188, R189), an equation for each edge at each level. -/

/-- The fall with CTS asserted; the pending bit is kept, or set by a transfer in progress (the spec's choice D14). -/
theorem exec_ctsFall_of_cts {s : State} (h : s.cts = true) :
    exec .ctsFall s = .next { s with
      cts := false, ctsFallPend := if s.dmaActive = true then true else s.ctsFallPend
      rxIn := s.rxIn ++ [.ctsFall], ret := .done } :=
  if_pos h

theorem exec_ctsFall_of_not_cts {s : State} (h : s.cts = false) : Holds s (exec .ctsFall s) :=
  if_neg (Bool.eq_false_iff.mp h)

theorem exec_ctsRise_of_cts {s : State} (h : s.cts = true) : Holds s (exec .ctsRise s) :=
  if_pos h

/-- The rise with CTS deasserted; a pending fall is not among the fields it writes. -/
theorem exec_ctsRise_of_not_cts {s : State} (h : s.cts = false) :
    exec .ctsRise s = .next { s with cts := true, rxIn := s.rxIn ++ [.ctsRise], ret := .done } :=
  if_neg (Bool.eq_false_iff.mp h)

/-- Settles O34: at either level one edge is enabled and the other holds. -/
theorem ctsEdgesMoveTheLevel : Obligations.CtsEdgesMoveTheLevel :=
  fun _ => ⟨fun high => ⟨exec_ctsFall_of_cts high, exec_ctsRise_of_cts high⟩,
    fun low => ⟨exec_ctsRise_of_not_cts low, exec_ctsFall_of_not_cts low⟩⟩

end Sys2Proof.Machine

/-! ### PROOFS. The message decoder (spec/43_cmd_decoder.md): what is rejected before any message is recognised -/

namespace Sys2Proof.Machine

/-! The decoder names the cause of an invalid run; `FRAME_VALIDATE` (R161) only says whether there is one. -/

theorem invalidCause_eq_none_iff (c : Cfg) (f : List Byte) : invalidCause c f = none ↔ frameValidate c f = true := by
  simp only [frameValidate, Bool.and_eq_true, decide_eq_true_eq, beq_iff_eq, and_assoc]
  unfold invalidCause
  split_ifs with hshort hsum hlen
  · exact iff_of_false nofun fun ⟨hlong, _, _⟩ => absurd hlong (Nat.not_le.mpr hshort)
  · exact iff_of_false nofun fun ⟨_, hzero, _⟩ => hsum hzero
  · exact iff_of_false nofun fun ⟨_, _, hfield⟩ => Bool.eq_false_iff.mp hlen hfield
  · exact iff_of_true rfl ⟨Nat.not_lt.mp hshort, not_not.mp hsum, Bool.eq_true_of_not_eq_false hlen⟩

theorem decode_of_valid {c : Cfg} {f : List Byte} (h : frameValidate c f = true) : decode c f = decodeValid c f := by
  rw [decode, (invalidCause_eq_none_iff c f).mpr h]

theorem decode_of_invalid {c : Cfg} {f : List Byte} (h : frameValidate c f = false) : ∃ r, decode c f = .error r := by
  cases hcause : invalidCause c f with
  | none => exact absurd ((invalidCause_eq_none_iff c f).mp hcause) (by simp [h])
  | some r => exact ⟨r, by rw [decode, hcause]⟩

/-- The echo test comes first among the tests of a valid run, before the destination is looked at (R222). -/
theorem decodeValid_of_echo {c : Cfg} {f : List Byte} (h : byteAt f 0 = c.selfAddr) : decodeValid c f = .error .selfEcho :=
  if_pos h

theorem decode_of_echo {c : Cfg} {f : List Byte} (h : byteAt f 0 = c.selfAddr) : ∃ r, decode c f = .error r := by
  cases hvalid : frameValidate c f with
  | false => exact decode_of_invalid hvalid
  | true => exact ⟨.selfEcho, (decode_of_valid hvalid).trans (decodeValid_of_echo h)⟩

theorem cmdDecode_of_error {c : Cfg} {f : List Byte} {r : Cause} (h : decode c f = .error r) : cmdDecode c f = none := by
  rw [cmdDecode, h]

theorem exec_cmdDecode (f : List Byte) (s : State) :
    Returns s (exec (.cmdDecode f) s) (.decoded (cmdDecode s.cfg f)) := rfl

/-- Settles O17: an invalid run and an echo are each rejected with a cause, and a rejected run decodes to none. -/
theorem invalidRunsAndEchoesDecodeToNone : Obligations.InvalidRunsAndEchoesDecodeToNone := by
  intro s f h
  have hrejected : ∃ r, decode s.cfg f = .error r := h.elim decode_of_invalid decode_of_echo
  obtain ⟨r, hr⟩ := hrejected
  simpa only [cmdDecode_of_error hr] using exec_cmdDecode f s

end Sys2Proof.Machine

/-! ### PROOFS. Frames and messages (spec/30_encoding.md, spec/43_cmd_decoder.md): the image of a frame, and that decode and
encode agree -/

namespace Sys2Proof.Machine

/-! What R8, R9 and R108 give, as `Cfg.wf` tests it. -/

theorem givenOk_of_wf {c : Cfg} (h : c.wf = true) : c.givenOk = true := by
  simp only [Cfg.wf, Bool.and_eq_true] at h
  exact h.1.1.1.1

theorem minFrameBytes_of_wf {c : Cfg} (h : c.wf = true) : c.minFrameBytes = 4 := by
  have hgiven := givenOk_of_wf h
  simp only [Cfg.givenOk, Bool.and_eq_true, beq_iff_eq] at hgiven
  omega

theorem maxPayload_of_wf {c : Cfg} (h : c.wf = true) : c.maxPayload = 29 := by
  have hgiven := givenOk_of_wf h
  simp only [Cfg.givenOk, Bool.and_eq_true, beq_iff_eq] at hgiven
  omega

theorem lenPoll_of_wf {c : Cfg} (h : c.wf = true) : c.lenPoll = 3 := by
  have hgiven := givenOk_of_wf h
  simp only [Cfg.givenOk, Bool.and_eq_true, beq_iff_eq] at hgiven
  omega

theorem lenCdc_of_wf {c : Cfg} (h : c.wf = true) : c.lenCdc = 5 := by
  have hgiven := givenOk_of_wf h
  simp only [Cfg.givenOk, Bool.and_eq_true, beq_iff_eq] at hgiven
  omega

theorem opPoll_of_wf {c : Cfg} (h : c.wf = true) : c.opPoll = 0x01 := by
  have hgiven := givenOk_of_wf h
  simp only [Cfg.givenOk, Bool.and_eq_true, beq_iff_eq] at hgiven
  exact hgiven.1.1.1.1.2

theorem opCdc_of_wf {c : Cfg} (h : c.wf = true) : c.opCdc = 0x38 := by
  have hgiven := givenOk_of_wf h
  simp only [Cfg.givenOk, Bool.and_eq_true, beq_iff_eq] at hgiven
  exact hgiven.1.1.2

theorem subs_nodup_of_wf {c : Cfg} (h : c.wf = true) : c.subs.Nodup := by
  simp only [Cfg.wf, Cfg.dialectOk, Bool.and_eq_true, decide_eq_true_eq] at h
  exact h.1.2.1

/-! The image of a frame and the run in its layout. -/

theorem imageSpec_layout (src dst : Byte) (p : List Byte) :
    imageSpec src dst p = src :: BitVec.ofNat 8 (p.length + 2) :: dst ::
      (p ++ [xor8 (src :: BitVec.ofNat 8 (p.length + 2) :: dst :: p)]) := rfl

@[simp] theorem length_imageSpec (src dst : Byte) (p : List Byte) : (imageSpec src dst p).length = p.length + 4 := by
  simp [imageSpec_layout]

@[simp] theorem xor8_imageSpec (src dst : Byte) (p : List Byte) : xor8 (imageSpec src dst p) = 0 := by
  rw [show imageSpec src dst p = (src :: BitVec.ofNat 8 (p.length + 2) :: dst :: p)
    ++ [xor8 (src :: BitVec.ofNat 8 (p.length + 2) :: dst :: p)] from rfl, xor8_concat, BitVec.xor_self]
  rfl

theorem payloadOf_imageSpec (src dst : Byte) (p : List Byte) : payloadOf (imageSpec src dst p) = p :=
  payloadOf_layout _ _ _ _ _

/-- A run of four bytes or more has the layout of a frame (R90). -/
theorem exists_layout {f : List Byte} (h : 4 ≤ f.length) : ∃ src len dst p ck, f = src :: len :: dst :: (p ++ [ck]) := by
  match f, h with
  | src :: len :: dst :: b :: bs, _ =>
    exact ⟨src, len, dst, (b :: bs).dropLast, (b :: bs).getLast (by simp), by rw [List.dropLast_concat_getLast]⟩

/-- `FRAME_VALIDATE` by the constants of R8. -/
theorem frameValidate_iff {c : Cfg} (h : c.wf = true) (f : List Byte) : frameValidate c f = true ↔
    4 ≤ f.length ∧ xor8 f = 0 ∧ (c.lenCheck = .none ∨ (byteAt f 1).toNat = f.length - 2) := by
  simp only [frameValidate, lengthFieldOk, minFrameBytes_of_wf h, lenBias_of_wf h, Bool.and_eq_true, Bool.or_eq_true,
    decide_eq_true_eq, beq_iff_eq, and_assoc]

/-- The length field of an image is exact while it fits a byte. -/
theorem toNat_lengthByte {p : List Byte} (h : p.length + 2 < 256) : (BitVec.ofNat 8 (p.length + 2)).toNat = p.length + 2 := by
  rw [BitVec.toNat_ofNat, Nat.mod_eq_of_lt h]

theorem frameValidate_imageSpec {c : Cfg} (h : c.wf = true) (src dst : Byte) {p : List Byte} (hp : p.length + 2 < 256) :
    frameValidate c (imageSpec src dst p) = true := by
  refine (frameValidate_iff h _).mpr ⟨by simp, by simp, .inr ?_⟩
  rw [length_imageSpec]
  exact toNat_lengthByte hp

/-- Under `strict` the bytes of a valid run are determined by its addresses and payload. -/
theorem eq_imageSpec_of_valid {c : Cfg} (h : c.wf = true) (hs : c.lenCheck = .strict) {f : List Byte}
    (hf : frameValidate c f = true) : f = imageSpec (byteAt f 0) (byteAt f 2) (payloadOf f) := by
  obtain ⟨hlong, hsum, hlen⟩ := (frameValidate_iff h f).mp hf
  obtain ⟨src, len, dst, p, ck, rfl⟩ := exists_layout hlong
  have hlength : len.toNat = p.length + 2 := by
    have := hlen.resolve_left (by simp [hs])
    simpa [byteAt] using this
  have hck : ck = xor8 (src :: len :: dst :: p) := by
    have hsplit : xor8 (src :: len :: dst :: p) ^^^ ck = 0 := by
      rw [← xor8_concat]
      exact hsum
    exact (BitVec.xor_eq_zero_iff.mp hsplit).symm
  rw [payloadOf_layout]
  change _ = imageSpec src dst p
  rw [imageSpec_layout, ← hlength, BitVec.ofNat_toNat, BitVec.setWidth_eq, ← hck]

/-! The decoder's tests, one equation for each way they end (R220). -/

theorem decodeValid_of_traffic {c : Cfg} {f : List Byte} (hsrc : byteAt f 0 ≠ c.selfAddr) (hdst : c.ours (byteAt f 2) = false) :
    decodeValid c f = .ok (.traffic (byteAt f 0) (byteAt f 2) (payloadOf f)) := by
  simp only [decodeValid, if_neg hsrc, if_pos hdst]

/-- The tests of R220 on an image, read off its addresses and payload. -/
theorem decode_imageSpec {c : Cfg} (h : c.wf = true) (src dst : Byte) {p : List Byte} (hp : p.length + 2 < 256) :
    decode c (imageSpec src dst p) =
      if src = c.selfAddr then .error .selfEcho
      else if c.ours dst = false then .ok (.traffic src dst p)
      else if p.length + 2 = 3 ∧ 1 ≤ p.length ∧ byteAt p 0 = 0x01 then .ok (.poll src dst)
      else if p.length + 2 = 5 ∧ 3 ≤ p.length ∧ byteAt p 0 = 0x38 then decodeCdc c src dst (byteAt p 1) (byteAt p 2)
      else .error .unrecognised := by
  have hsrc : byteAt (imageSpec src dst p) 0 = src := rfl
  have hlen : (byteAt (imageSpec src dst p) 1).toNat = p.length + 2 := toNat_lengthByte hp
  have hdst : byteAt (imageSpec src dst p) 2 = dst := rfl
  rw [decode_of_valid (frameValidate_imageSpec h src dst hp)]
  simp only [decodeValid, hsrc, hlen, hdst, payloadOf_imageSpec, lenPoll_of_wf h, opPoll_of_wf h, lenCdc_of_wf h, opCdc_of_wf h]

theorem decode_trafficImage {c : Cfg} (h : c.wf = true) {src dst : Byte} {p : List Byte} (hp : p.length ≤ 29)
    (hsrc : src ≠ c.selfAddr) (hdst : c.ours dst = false) :
    decode c (imageSpec src dst p) = .ok (.traffic src dst p) := by
  rw [decode_imageSpec h src dst (by omega), if_neg hsrc, if_pos hdst]

theorem decode_pollImage {c : Cfg} (h : c.wf = true) {src dst : Byte} (hsrc : src ≠ c.selfAddr) (hdst : c.ours dst = true) :
    decode c (imageSpec src dst [0x01]) = .ok (.poll src dst) := by
  simp [decode_imageSpec h, hsrc, hdst, byteAt]

/-- A changer command's image reaches the table of R108. -/
theorem decode_cdcImage {c : Cfg} (h : c.wf = true) {src dst : Byte} (hsrc : src ≠ c.selfAddr) (hdst : c.ours dst = true)
    (sub data : Byte) : decode c (imageSpec src dst [0x38, sub, data]) = decodeCdc c src dst sub data := by
  simp [decode_imageSpec h, hsrc, hdst, byteAt]

/-- Each sub-command byte selects its own row, since the ten are pairwise distinct (R108). -/
theorem decodeCdc_of_wf {c : Cfg} (h : c.wf = true) :
    (∀ src dst data, decodeCdc c src dst c.subStatus data = .ok (.cdcStatus src dst data))
    ∧ (∀ src dst data, decodeCdc c src dst c.subStop data = .ok (.cdcStop src dst data))
    ∧ (∀ src dst data, decodeCdc c src dst c.subPause data = .ok (.cdcPause src dst data))
    ∧ (∀ src dst data, decodeCdc c src dst c.subPlay data = .ok (.cdcPlay src dst data))
    ∧ (∀ src dst data, decodeCdc c src dst c.subFastplay data = .ok (.cdcFastplay src dst data))
    ∧ (∀ src dst data, decodeCdc c src dst c.subSeek data = .ok (.cdcSeek src dst data))
    ∧ (∀ src dst data, decodeCdc c src dst c.subAltseek data = .ok (.cdcAltseek src dst data))
    ∧ (∀ src dst data, decodeCdc c src dst c.subChangedisc data = .ok (.cdcChangedisc src dst data))
    ∧ (∀ src dst data, decodeCdc c src dst c.subScandisc data = .ok (.cdcScandisc src dst data))
    ∧ (∀ src dst data, decodeCdc c src dst c.subRandomize data = .ok (.cdcRandomize src dst data)) := by
  have hdistinct := subs_nodup_of_wf h
  simp only [Cfg.subs, List.nodup_cons, List.mem_cons, List.not_mem_nil, or_false, not_or] at hdistinct
  grind [decodeCdc]

theorem encodeCdc_of_wf {c : Cfg} (h : c.wf = true) (src dst sub data : Byte) :
    encodeCdc c src dst sub data = imageSpec src dst [0x38, sub, data] := by
  rw [encodeCdc, frameImage_of_wf h, opCdc_of_wf h]

theorem cdcWellFormed_iff {c : Cfg} {src dst : Byte} :
    cdcWellFormed c src dst = true ↔ src ≠ c.selfAddr ∧ c.ours dst = true := by
  simp [cdcWellFormed]

/-- A changer command's encoding decodes as the table reads its sub-command byte. -/
theorem decode_encodeCdc {c : Cfg} (h : c.wf = true) {src dst : Byte} (hwf : cdcWellFormed c src dst = true)
    (sub data : Byte) : decode c (encodeCdc c src dst sub data) = decodeCdc c src dst sub data := by
  obtain ⟨hsrc, hdst⟩ := cdcWellFormed_iff.mp hwf
  rw [encodeCdc_of_wf h, decode_cdcImage h hsrc hdst]

/-- Settles O24: each format's image decodes to its message. -/
theorem decodeOfEncodedMessageIsTheMessage : Obligations.DecodeOfEncodedMessageIsTheMessage := by
  intro c i f h hin hwf henc
  have hcdc {src dst data sub : Byte} {k : Instr} (hk : decodeCdc c src dst sub data = .ok k)
      (hok : cdcWellFormed c src dst = true) (he : some (encodeCdc c src dst sub data) = some f) : decode c f = .ok k := by
    rw [← Option.some.inj he, decode_encodeCdc h hok, hk]
  obtain ⟨hStatus, hStop, hPause, hPlay, hFastplay,
    hSeek, hAltseek, hChangedisc, hScandisc, hRandomize⟩ := decodeCdc_of_wf h
  cases i with
  | traffic src dst p =>
    simp only [WellFormed, Bool.and_eq_true, bne_iff_ne, Bool.not_eq_true', decide_eq_true_eq, maxPayload_of_wf h] at hwf
    rw [← Option.some.inj henc, frameImage_of_wf h, decode_trafficImage h hwf.2 hwf.1.1 hwf.1.2]
  | poll src dst =>
    obtain ⟨hsrc, hdst⟩ := cdcWellFormed_iff.mp hwf
    rw [← Option.some.inj henc, frameImage_of_wf h, opPoll_of_wf h, decode_pollImage h hsrc hdst]
  | cdcStatus src dst data => exact hcdc (hStatus src dst data) hwf henc
  | cdcStop src dst data => exact hcdc (hStop src dst data) hwf henc
  | cdcPause src dst data => exact hcdc (hPause src dst data) hwf henc
  | cdcPlay src dst data => exact hcdc (hPlay src dst data) hwf henc
  | cdcFastplay src dst data => exact hcdc (hFastplay src dst data) hwf henc
  | cdcSeek src dst data => exact hcdc (hSeek src dst data) hwf henc
  | cdcAltseek src dst data => exact hcdc (hAltseek src dst data) hwf henc
  | cdcChangedisc src dst data => exact hcdc (hChangedisc src dst data) hwf henc
  | cdcScandisc src dst data => exact hcdc (hScandisc src dst data) hwf henc
  | cdcRandomize src dst data => exact hcdc (hRandomize src dst data) hwf henc
  | _ => cases hin

end Sys2Proof.Machine

/-! ### PROOFS. What the decoder accepts and what it gives (spec/41_rx_framer.md section 2, spec/43_cmd_decoder.md) -/

namespace Sys2Proof.Machine

/-- Everything the decoder's tests let through, of a valid run (R220, R222 to R225). -/
theorem decodeValid_cases {c : Cfg} {f : List Byte} {i : Instr} (h : decodeValid c f = .ok i) :
    byteAt f 0 ≠ c.selfAddr ∧
      ((c.ours (byteAt f 2) = false ∧ i = .traffic (byteAt f 0) (byteAt f 2) (payloadOf f))
        ∨ (c.ours (byteAt f 2) = true ∧ (byteAt f 1).toNat = c.lenPoll ∧ byteAt (payloadOf f) 0 = c.opPoll
          ∧ i = .poll (byteAt f 0) (byteAt f 2))
        ∨ (c.ours (byteAt f 2) = true ∧ (byteAt f 1).toNat = c.lenCdc ∧ byteAt (payloadOf f) 0 = c.opCdc
          ∧ decodeCdc c (byteAt f 0) (byteAt f 2) (byteAt (payloadOf f) 1) (byteAt (payloadOf f) 2) = .ok i)) := by
  unfold decodeValid at h
  dsimp only at h
  split_ifs at h with hsrc hdst hpoll hcdc
  · exact ⟨hsrc, .inl ⟨hdst, (Except.ok.inj h).symm⟩⟩
  · exact ⟨hsrc, .inr (.inl ⟨Bool.eq_true_of_not_eq_false hdst, hpoll.1, hpoll.2.2, (Except.ok.inj h).symm⟩)⟩
  · exact ⟨hsrc, .inr (.inr ⟨Bool.eq_true_of_not_eq_false hdst, hcdc.1, hcdc.2.2, h⟩)⟩

theorem decode_ok {c : Cfg} {f : List Byte} {i : Instr} (h : decode c f = .ok i) :
    frameValidate c f = true ∧ decodeValid c f = .ok i := by
  cases hvalid : frameValidate c f with
  | true => exact ⟨rfl, (decode_of_valid hvalid).symm.trans h⟩
  | false =>
    obtain ⟨r, hr⟩ := decode_of_invalid hvalid
    rw [hr] at h
    cases h

/-- The message a sub-command byte selects is encoded with that byte. -/
theorem decodeCdc_ok {c : Cfg} {src dst sub data : Byte} {i : Instr} (h : decodeCdc c src dst sub data = .ok i) :
    encode c i = some (encodeCdc c src dst sub data) ∧ isInbound i = true ∧ WellFormed c i = cdcWellFormed c src dst := by
  unfold decodeCdc at h
  split_ifs at h <;>
    · cases h
      subst sub
      exact ⟨rfl, rfl, rfl⟩

theorem exists_payload_one {p : List Byte} (h : p.length = 1) : p = [byteAt p 0] := by
  obtain ⟨b, rfl⟩ := List.length_eq_one_iff.mp h
  rfl

theorem exists_payload_three {p : List Byte} (h : p.length = 3) : p = [byteAt p 0, byteAt p 1, byteAt p 2] := by
  obtain ⟨b₀, b₁, b₂, rfl⟩ := List.length_eq_three.mp h
  rfl

/-- Settles O25: the length field and the checksum leave a valid run no freedom, and each test fixes the bytes of its format. -/
theorem encodeOfDecodedRunIsTheRun : Obligations.EncodeOfDecodedRunIsTheRun := by
  intro c i f h hstrict hshort hdec
  obtain ⟨hvalid, hdec⟩ := decode_ok hdec
  obtain ⟨hlong, -, hlen⟩ := (frameValidate_iff h f).mp hvalid
  have himage := eq_imageSpec_of_valid h hstrict hvalid
  have hlength : f.length = (payloadOf f).length + 4 := by
    conv_lhs => rw [himage]
    exact length_imageSpec _ _ _
  have hfield : (byteAt f 1).toNat = (payloadOf f).length + 2 := by
    have := hlen.resolve_left (by simp [hstrict])
    omega
  obtain ⟨hsrc, htraffic | hpoll | hcdc⟩ := decodeValid_cases hdec
  · obtain ⟨hdst, rfl⟩ := htraffic
    refine ⟨?_, rfl, ?_⟩
    · rw [encode, frameImage_of_wf h, ← himage]
    · have hpayload : (payloadOf f).length ≤ c.maxPayload := by
        rw [maxPayload_of_wf h]
        omega
      simp [WellFormed, hsrc, hdst, hpayload]
  · obtain ⟨hdst, hthree, hop, rfl⟩ := hpoll
    refine ⟨?_, rfl, cdcWellFormed_iff.mpr ⟨hsrc, hdst⟩⟩
    have hpayload : payloadOf f = [c.opPoll] := by
      rw [← hop]
      exact exists_payload_one (by have := lenPoll_of_wf h; omega)
    rw [encode, frameImage_of_wf h, ← hpayload, ← himage]
  · obtain ⟨hdst, hfive, hop, hrow⟩ := hcdc
    obtain ⟨henc, hin, hwf⟩ := decodeCdc_ok hrow
    refine ⟨?_, hin, hwf.trans (cdcWellFormed_iff.mpr ⟨hsrc, hdst⟩)⟩
    have hpayload : payloadOf f = [c.opCdc, byteAt (payloadOf f) 1, byteAt (payloadOf f) 2] := by
      conv_rhs => rw [← hop]
      exact exists_payload_three (by have := lenCdc_of_wf h; omega)
    rw [henc, encodeCdc, frameImage_of_wf h, ← hpayload, ← himage]

/-! `FRAME_VALIDATE` and what it detects (R161, R163, R155). -/

theorem exec_frameValidate (f : List Byte) (s : State) :
    Returns s (exec (.frameValidate f) s) (.bool (frameValidate s.cfg f)) := rfl

/-- Settles O10: the operation returns `frameValidate`'s value, whose tests are R161's. -/
theorem frameValidateTestsCountXorAndLength : Obligations.FrameValidateTestsCountXorAndLength :=
  fun s f h => ⟨frameValidate s.cfg f, exec_frameValidate f s, frameValidate_iff h f⟩

theorem xor8_of_valid {c : Cfg} {f : List Byte} (h : frameValidate c f = true) : xor8 f = 0 := by
  simp only [frameValidate, Bool.and_eq_true, beq_iff_eq] at h
  exact h.1.2

/-- Putting another byte at index `k` changes the checksum by the difference of the two bytes. -/
theorem xor8_set {f : List Byte} {k : Nat} (hk : k < f.length) (b : Byte) :
    xor8 (f.set k b) = xor8 f ^^^ (f[k] ^^^ b) := by
  have hset : xor8 (f.set k b) = xor8 (f.take k) ^^^ (b ^^^ xor8 (f.drop (k + 1))) := by
    rw [List.set_eq_take_append_cons_drop, if_pos hk, xor8_append, xor8_cons]
  have hold : xor8 f = xor8 (f.take k) ^^^ (f[k] ^^^ xor8 (f.drop (k + 1))) := by
    conv_lhs => rw [← List.take_append_drop k f, List.drop_eq_getElem_cons hk, xor8_append, xor8_cons]
  calc xor8 (f.set k b) = xor8 (f.take k) ^^^ (b ^^^ xor8 (f.drop (k + 1))) ^^^ (f[k] ^^^ f[k]) := by simp [hset]
    _ = xor8 (f.take k) ^^^ (f[k] ^^^ xor8 (f.drop (k + 1))) ^^^ (f[k] ^^^ b) := by ac_rfl
    _ = xor8 f ^^^ (f[k] ^^^ b) := by rw [← hold]

/-- Settles O12: the checksum of the corrupted run is the difference of the two bytes. -/
theorem singleByteCorruptionIsDetected : Obligations.SingleByteCorruptionIsDetected := by
  intro c f k b hvalid hk hne
  cases hset : frameValidate c (f.set k b) with
  | false => rfl
  | true =>
    have hdiff : f[k] ^^^ b = 0 := by
      rw [← xor8_of_valid hset, xor8_set hk, xor8_of_valid hvalid]
      exact (BitVec.zero_xor).symm
    exact absurd (by rw [List.getElem?_eq_getElem hk, BitVec.xor_eq_zero_iff.mp hdiff]) hne

/-- Settles O13: the length field is the first frame's, and the run is longer. -/
theorem backToBackFramesAreDropped : Obligations.BackToBackFramesAreDropped := by
  intro c f g h hstrict hf hg
  obtain ⟨hflong, hfsum, hflen⟩ := (frameValidate_iff h f).mp hf
  obtain ⟨hglong, hgsum, -⟩ := (frameValidate_iff h g).mp hg
  have hfield : byteAt (f ++ g) 1 = byteAt f 1 := by
    rw [byteAt, byteAt, List.getD_append _ _ _ _ (by omega)]
  have hinvalid : frameValidate c (f ++ g) = false := by
    refine Bool.eq_false_iff.mpr fun hfg => ?_
    obtain ⟨-, -, hlen⟩ := (frameValidate_iff h _).mp hfg
    have hfirst := hflen.resolve_left (by simp [hstrict])
    have hboth := hlen.resolve_left (by simp [hstrict])
    rw [hfield, List.length_append] at hboth
    omega
  obtain ⟨r, hr⟩ := decode_of_invalid hinvalid
  refine ⟨hinvalid, cmdDecode_of_error hr, ?_⟩
  rw [xor8_append, hfsum, hgsum, BitVec.xor_self]
  rfl

/-- Settles O29: the image is valid whatever `LEN_CHECK` is, and has the layout that is parsed. -/
theorem populatedFramesAreValidAndParseBack : Obligations.PopulatedFramesAreValidAndParseBack := by
  intro c src dst p f h hpop
  have hgood : 1 ≤ p.length ∧ p.length ≤ 20 := by
    by_contra hbad
    rw [framePopulate_of_bad_length h src dst (by omega)] at hpop
    cases hpop
  rw [framePopulate_of_good_length h src dst hgood] at hpop
  obtain rfl := Option.some.inj hpop
  refine ⟨frameValidate_imageSpec h src dst (by omega), xor8_imageSpec src dst p, rfl, rfl, payloadOf_imageSpec src dst p, ?_⟩
  rw [length_imageSpec]
  omega

/-! The decision tree of R220 with the table of R108. -/

theorem discOf_eq_find (data : Byte) : discOf data = Disc.all.find? fun d => d.toNat == data.toNat := by
  revert data
  decide

theorem directionOf_eq (at0 : Direction) (data : Byte) : directionOf at0 data =
    if data = 0 ∨ data = 1 then some (if data = 0 then at0 else if at0 = .fwd then .rev else .fwd) else none := by
  have hother : otherDirection at0 = if at0 = .fwd then .rev else .fwd := by cases at0 <;> rfl
  rw [directionOf, hother]
  by_cases h0 : data = 0
  · rw [if_pos h0, if_pos (Or.inl h0), if_pos h0]
  · by_cases h1 : data = 1
    · rw [if_neg h0, if_pos h1, if_pos (Or.inr h1), if_neg h0]
    · rw [if_neg h0, if_neg h1, if_neg (not_or.mpr ⟨h0, h1⟩)]

theorem onoff_eq (data : Byte) : onoff data =
    if data = 0 ∨ data = 1 then some (if data = 0 then .off else .on) else none := by
  rw [onoff]
  by_cases h0 : data = 0
  · rw [if_pos h0, if_pos (Or.inl h0), if_pos h0]
  · by_cases h1 : data = 1
    · rw [if_neg h0, if_pos h1, if_pos (Or.inr h1), if_neg h0]
    · rw [if_neg h0, if_neg h1, if_neg (not_or.mpr ⟨h0, h1⟩)]

theorem ite_isBinary (data : Byte) (k : TypedCommand) : (if isBinary data then some k else none)
    = if data = 0 ∨ data = 1 then some k else none := by
  simp [isBinary]

theorem map_ite_some {α β : Type} (p : Prop) [Decidable p] (a : α) (g : α → β) :
    (if p then some a else none).map g = if p then some (g a) else none := by
  split <;> rfl

/-- The results of the ten sub-commands, as the statements write them (R226 to R235). -/
theorem messageResult_cdc (c : Cfg) (src dst data : Byte) :
    let dir (at0 : Direction) : Direction := if data = 0 then at0 else if at0 = .fwd then .rev else .fwd
    let sw : OnOff := if data = 0 then .off else .on
    let bin (k : TypedCommand) : Option TypedCommand := if data = 0 ∨ data = 1 then some k else none
    messageResult c (.cdcStatus src dst data) = bin .status
    ∧ messageResult c (.cdcStop src dst data) = bin .stop
    ∧ messageResult c (.cdcPause src dst data) = bin .pause
    ∧ messageResult c (.cdcPlay src dst data) = bin .play
    ∧ messageResult c (.cdcFastplay src dst data) = bin (.fastPlay (dir c.dirFastplay0))
    ∧ messageResult c (.cdcSeek src dst data) = bin (.seek (dir c.dirSeek0))
    ∧ messageResult c (.cdcAltseek src dst data) = bin (.seek (dir c.dirAltseek0))
    ∧ messageResult c (.cdcChangedisc src dst data)
        = (Disc.all.find? fun d => d.toNat == data.toNat).map .changeDisc
    ∧ messageResult c (.cdcScandisc src dst data) = bin (.scanDisc sw)
    ∧ messageResult c (.cdcRandomize src dst data) = bin (.randomize sw) := by
  simp only [messageResult, resultStatus, resultStop, resultPause, resultPlay, resultFastplay, resultSeek, resultAltseek,
    resultChangedisc, resultScandisc, resultRandomize, ite_isBinary, directionOf_eq, onoff_eq, discOf_eq_find, map_ite_some,
    and_self]

/-- The first row of a table that a byte selects. -/
theorem find_row (a sub : Byte) (v : Option TypedCommand) (rows : List (Byte × Option TypedCommand)) :
    (((a, v) :: rows).find? fun r => r.1 == sub).bind Prod.snd
      = if sub = a then v else (rows.find? fun r => r.1 == sub).bind Prod.snd := by
  by_cases h : sub = a
  · simp [h]
  · simp [h, Ne.symm h]

theorem bind_toOption_ok (i : Instr) (g : Instr → Option TypedCommand) :
    (Except.ok i : Except Cause Instr).toOption.bind g = g i := rfl

theorem bind_toOption_error (r : Cause) (g : Instr → Option TypedCommand) :
    (Except.error r : Except Cause Instr).toOption.bind g = none := rfl

theorem bind_toOption_ite {p : Prop} [Decidable p] (x y : Except Cause Instr) (g : Instr → Option TypedCommand) :
    (if p then x else y).toOption.bind g = if p then x.toOption.bind g else y.toOption.bind g := by
  split <;> rfl

/-- The table of R108 gives the result of the message its row selects. -/
theorem cdcSpec_eq (c : Cfg) (src dst sub data : Byte) :
    cdcSpec c sub data = (decodeCdc c src dst sub data).toOption.bind (messageResult c) := by
  obtain ⟨hStatus, hStop, hPause, hPlay, hFastplay, hSeek, hAltseek, hChangedisc, hScandisc, hRandomize⟩ :=
    messageResult_cdc c src dst data
  simp only [cdcSpec, find_row, decodeCdc, bind_toOption_ite, bind_toOption_ok, bind_toOption_error, hStatus, hStop, hPause,
    hPlay, hFastplay, hSeek, hAltseek, hChangedisc, hScandisc, hRandomize]
  rfl

theorem cmdDecode_eq_bind (c : Cfg) (f : List Byte) : cmdDecode c f = (decode c f).toOption.bind (messageResult c) := by
  unfold cmdDecode
  cases decode c f <;> rfl

theorem ours_eq_false_iff {c : Cfg} {a : Byte} :
    c.ours a = false ↔ ¬ (a = c.selfAddr ∨ a = c.bcastLo ∨ a = c.bcastHi) := by
  simp [Cfg.ours, not_or, and_assoc]

theorem payloadOf_eq (f : List Byte) : payloadOf f = (f.drop 3).dropLast := by
  rw [payloadOf, List.dropLast_eq_take, List.drop_take, List.length_drop, Nat.sub_right_comm]

/-- The translator's value is the decision tree's. -/
theorem cmdDecode_eq_cmdDecodeSpec {c : Cfg} (h : c.wf = true) (f : List Byte) : cmdDecode c f = cmdDecodeSpec c f := by
  have hiff := frameValidate_iff h f
  rw [cmdDecode_eq_bind]
  cases hvalid : frameValidate c f with
  | false =>
    have hbad := fun hv => Bool.eq_false_iff.mp hvalid (hiff.mpr hv)
    obtain ⟨r, hr⟩ := decode_of_invalid hvalid
    rw [hr]
    exact (if_pos hbad).symm
  | true =>
    rw [decode_of_valid hvalid]
    refine Eq.trans ?_ (if_neg (not_not_intro (hiff.mp hvalid))).symm
    simp only [decodeValid, bind_toOption_ite, bind_toOption_ok, bind_toOption_error, ← cdcSpec_eq, ours_eq_false_iff,
      lenPoll_of_wf h, opPoll_of_wf h, lenCdc_of_wf h, opCdc_of_wf h, payloadOf_eq]
    rfl

/-- Settles O16: the operation returns `cmdDecode`'s value. -/
theorem cmdDecodeIsTheDecisionTree : Obligations.CmdDecodeIsTheDecisionTree := by
  intro s f h
  rw [← cmdDecode_eq_cmdDecodeSpec h]
  exact exec_cmdDecode f s

end Sys2Proof.Machine

/-! ### PROOFS. Everything a step can do: the moves of the block, each an update of the state, and that every operation, host step
and step of the machine is one of them -/

namespace Sys2Proof.Machine

/-- The bits of a pool of `n` slots after `POOL_FREE` of index `i`; an index outside the pool changes nothing (R133). -/
def freed (n : Nat) (bits : List Bool) (i : Nat) : List Bool := if i < n then bits.set i false else bits

theorem release_prx (s : State) (i : Nat) :
    release s .prx ⟨.prx, i⟩ = { s with prx := { s.prx with inUse := freed s.cfg.nRx s.prx.inUse i } } := by
  by_cases hi : i < s.cfg.nRx
  · simp only [freed, if_pos hi]
    exact if_pos (by simp [recognised, Cfg.slotCount, hi])
  · simp only [freed, if_neg hi]
    exact if_neg (by simp [recognised, Cfg.slotCount, hi])

theorem release_ptx (s : State) (i : Nat) :
    release s .ptx ⟨.ptx, i⟩ = { s with ptx := { s.ptx with inUse := freed s.cfg.nTx s.ptx.inUse i } } := by
  by_cases hi : i < s.cfg.nTx
  · simp only [freed, if_pos hi]
    exact if_pos (by simp [recognised, Cfg.slotCount, hi])
  · simp only [freed, if_neg hi]
    exact if_neg (by simp [recognised, Cfg.slotCount, hi])

/-- What one action can do to the block, with the facts that let it. The choice of a free slot is forgotten; where a rule lets one
operation alone do it, the action is that operation. -/
inductive Move : Action → State → State → Prop where
  /-- a hold, a reject or a pure function -/
  | stay {a s} : Move a s s
  | alloc {a s} (p : Pool) (i : Nat) (inPool : i < s.cfg.slotCount p) (free : (s.slots p).inUse[i]? = some false) :
      Move a s { s.setInUse p i true with held := ⟨p, i⟩ :: s.held }
  | poolFree {s} (p : Pool) (h : Handle) (known : recognised s p h = true) :
      Move (.op (.poolFree p h)) s { s.setInUse p h.idx false with held := s.held.erase h }
  | rxStore {a s} (b : Byte) (room : s.rxCnt < s.cfg.rxCap) :
      Move a s { s with
        mem := Memory.write s.mem (rxBufBase s.cfg + s.rxCnt) b, rxCnt := s.rxCnt + 1, rxIn := s.rxIn ++ [.rxByte b] }
  | rxOverrun {a s} (b : Byte) : Move a s { s with rxTag := .bufferOverrun, rxIn := s.rxIn ++ [.rxByte b] }
  | lineIdle {a s} : Move a s { s with rxIn := s.rxIn ++ [.rxIdle] }
  | frameQueued {a s} (tag : Tag) (i : Nat) (bs : List Byte) (ev : List EnvEvent) (inPool : i < s.cfg.nRx)
      (free : s.prx.inUse[i]? = some false) (room : hasRoom s.rxq s.cfg.rxqCap = true) (bytes : scratchBytes s = .ok bs)
      (fits : bs.length ≤ s.cfg.slotBytes) :
      Move a s { s with
        prx := ⟨s.prx.inUse.set i true, s.prx.len.set i s.rxCnt⟩, prxTag := s.prxTag.set i tag
        mem := Memory.writeN s.mem (slotBase s.cfg .prx i) bs, rxq := s.rxq ++ [i], rxCnt := 0, rxTag := .ok
        rxIn := s.rxIn ++ ev }
  | frameDropped {a s} (ev : List EnvEvent) : Move a s { s with rxCnt := 0, rxTag := .ok, rxIn := s.rxIn ++ ev }
  | delivered {a s} (r : Option TypedCommand) (i : Nat) (rest : List Nat) (head : s.rxq = i :: rest)
      (room : r = none ∨ hasRoom s.cmdq s.cfg.cmdqCap = true) :
      Move a s { s with
        rxq := rest, cmdq := s.cmdq ++ r.toList, prx := { s.prx with inUse := freed s.cfg.nRx s.prx.inUse i } }
  | cmdTaken {a s} (c : TypedCommand) (rest : List TypedCommand) (head : s.cmdq = c :: rest) :
      Move a s { s with cmdq := rest, cmdOut := s.cmdOut ++ [c] }
  | txQueued {a s} (src dst : Byte) (p img : List Byte) (i : Nat) (image : framePopulate s.cfg src dst p = some img)
      (room : hasRoom s.txq s.cfg.txqCap = true) (inPool : i < s.cfg.nTx) (free : s.ptx.inUse[i]? = some false)
      (fits : img.length ≤ s.cfg.slotBytes) :
      Move a s { s with
        ptx := ⟨s.ptx.inUse.set i true, s.ptx.len.set i img.length⟩
        mem := Memory.writeN s.mem (slotBase s.cfg .ptx i) img, txq := s.txq ++ [i] }
  | txStarted {a s} (h : Nat) (rest : List Nat) (head : s.txq = h :: rest) (idle : s.txs = .idle) (cts : s.cts = true)
      (noFall : s.ctsFallPend = false) :
      Move a s { s with
        txCur := h, txq := rest, dmaIdx := 0, dmaActive := true, txWake := .none, txs := .sending
        lineOut := s.lineOut ++ [.start h] }
  | dmaByte {a s} (n : Nat) (b : Byte) (active : s.dmaActive = true) (len : transferLen s = some n) (left : s.dmaIdx < n) :
      Move a s { s with lineOut := s.lineOut ++ [.byte b], dmaIdx := s.dmaIdx + 1 }
  | dmaCompleted {a s} (active : s.dmaActive = true) (len : transferLen s = some s.dmaIdx) :
      Move a s { s with dmaActive := false, txWake := postDone s.txWake, lineOut := s.lineOut ++ [.complete] }
  | ctsFell {a s} : Move a s { s with
      cts := false, ctsFallPend := postFall s.dmaActive s.ctsFallPend, rxIn := s.rxIn ++ [.ctsFall] }
  | ctsRose {a s} : Move a s { s with cts := true, rxIn := s.rxIn ++ [.ctsRise] }
  | aborted {a s} (active : s.dmaActive = true) :
      Move a s { s with
        ctsFallPend := false, dmaActive := false, txWake := .collision, lineOut := s.lineOut ++ [.abort s.dmaIdx] }
  | fallIgnored {a s} : Move a s { s with ctsFallPend := false }
  | requeued {a s} (sending : s.txs = .sending) (collision : s.txWake = .collision)
      (room : hasRoom s.txq s.cfg.txqCap = true) :
      Move a s { s with txq := s.txCur :: s.txq, txWake := .none, txs := .idle }
  | sent {s} (sending : s.txs = .sending) (done : s.txWake = .done) :
      Move (.op .txtWakeDone) s { s with
        ptx := { s.ptx with inUse := freed s.cfg.nTx s.ptx.inUse s.txCur }, txWake := .none, txs := .gap }
  | gapEnded {a s} (gap : s.txs = .gap) : Move a s { s with txs := .idle }

/-- `t` is the outcome of a move, with the value returned. -/
def Moves (a : Action) (s t : State) : Prop := ∃ u r, Move a s u ∧ t = { u with ret := r }

theorem eq_of_finish {r : Ret} {u t : State} (h : finish r u = .next t) : t = { u with ret := r } :=
  (Host.Outcome.next.inj h).symm

theorem Moves.of_finish {a : Action} {s u t : State} {r : Ret} (m : Move a s u) (h : finish r u = .next t) : Moves a s t :=
  ⟨u, r, m, eq_of_finish h⟩

theorem Moves.of_hold {a : Action} {s t : State} (h : hold s = .next t) : Moves a s t := .of_finish .stay h

/-! The operations, in the order of the dispatcher. -/

theorem execPoolAlloc_cases {p : Pool} {s t : State} (h : execPoolAlloc p s = .next t) :
    ((∀ i, i < s.cfg.slotCount p → (s.slots p).inUse[i]? ≠ some false) ∧ t = { s with ret := .held })
      ∨ ∃ i, i < s.cfg.slotCount p ∧ (s.slots p).inUse[i]? = some false
          ∧ t = { s.setInUse p i true with held := ⟨p, i⟩ :: s.held, ret := .handle ⟨p, i⟩ } := by
  unfold execPoolAlloc at h
  split at h
  · rename_i i u hclaim
    obtain ⟨hi, hfree, rfl⟩ := claim_some hclaim
    exact .inr ⟨i, hi, hfree, eq_of_finish h⟩
  · rename_i hclaim
    exact .inl ⟨(claim_none s p).mp hclaim, eq_of_finish h⟩

theorem execPoolTryAlloc_cases {p : Pool} {s t : State} (h : execPoolTryAlloc p s = .next t) :
    ((∀ i, i < s.cfg.slotCount p → (s.slots p).inUse[i]? ≠ some false) ∧ t = { s with ret := .tryHandle none })
      ∨ ∃ i, i < s.cfg.slotCount p ∧ (s.slots p).inUse[i]? = some false
          ∧ t = { s.setInUse p i true with held := ⟨p, i⟩ :: s.held, ret := .tryHandle (some ⟨p, i⟩) } := by
  unfold execPoolTryAlloc at h
  split at h
  · rename_i i u hclaim
    obtain ⟨hi, hfree, rfl⟩ := claim_some hclaim
    exact .inr ⟨i, hi, hfree, eq_of_finish h⟩
  · rename_i hclaim
    exact .inl ⟨(claim_none s p).mp hclaim, eq_of_finish h⟩

theorem execPoolAlloc_moves {a : Action} {p : Pool} {s t : State} (h : execPoolAlloc p s = .next t) : Moves a s t := by
  obtain ⟨-, rfl⟩ | ⟨i, hi, hfree, rfl⟩ := execPoolAlloc_cases h
  · exact ⟨s, _, .stay, rfl⟩
  · exact ⟨_, _, .alloc p i hi hfree, rfl⟩

theorem execPoolTryAlloc_moves {a : Action} {p : Pool} {s t : State} (h : execPoolTryAlloc p s = .next t) : Moves a s t := by
  obtain ⟨-, rfl⟩ | ⟨i, hi, hfree, rfl⟩ := execPoolTryAlloc_cases h
  · exact ⟨s, _, .stay, rfl⟩
  · exact ⟨_, _, .alloc p i hi hfree, rfl⟩

theorem execPoolFree_moves {p : Pool} {k : Handle} {s t : State} (h : execPoolFree p k s = .next t) :
    Moves (.op (.poolFree p k)) s t := by
  unfold execPoolFree at h
  split at h
  · rename_i hknown
    have hrelease : release s p k = s.setInUse p k.idx false := if_pos hknown
    rw [hrelease] at h
    exact .of_finish (.poolFree p k hknown) h
  · exact .of_finish .stay h

theorem execRxByte_moves {a : Action} {b : Byte} {s t : State} (h : execRxByte b s = .next t) : Moves a s t := by
  unfold execRxByte at h
  split at h
  · rename_i hroom
    exact .of_finish (.rxStore b hroom) h
  · exact .of_finish (.rxOverrun b) h

/-- A slot claimed and freed again leaves the bits of its pool as they were. -/
theorem set_true_set_false {bits : List Bool} {i : Nat} (free : bits[i]? = some false) : (bits.set i true).set i false = bits := by
  obtain ⟨hlt, hbit⟩ := List.getElem?_eq_some_iff.mp free
  rw [List.set_set, ← hbit, List.set_getElem_self]

/-- A slot claimed and released again has the bit it had. -/
theorem release_claimed {s : State} {i : Nat} (hi : i < s.cfg.nRx) (hfree : s.prx.inUse[i]? = some false) :
    release (s.setInUse .prx i true) .prx ⟨.prx, i⟩ = s := by
  have hbits : freed s.cfg.nRx (s.prx.inUse.set i true) i = s.prx.inUse := by
    rw [freed, if_pos hi, set_true_set_false hfree]
  rw [release_prx]
  simp only [setInUse_cfg, setInUse_prx_prx, hbits]
  rfl

/-- Everything a frame end does to the block, whatever tag the state it ends in had. -/
theorem frameEnd_moves {a : Action} {tag rt : Tag} {s t : State} (ev : List EnvEvent)
    (h : frameEnd tag { s with rxTag := rt } = .ok t) : Move a s { t with rxIn := s.rxIn ++ ev } := by
  obtain ⟨i, bs, hi, hfree, hroom, hbytes, hfits, rfl⟩ | ⟨i, hi, hfree, -, rfl⟩ | ⟨-, rfl⟩ := frameEnd_cases h
  · exact .frameQueued tag i bs ev hi hfree hroom hbytes hfits
  · rw [release_claimed hi hfree]
    exact .frameDropped ev
  · exact .frameDropped ev

theorem frameEnd_rxIn {tag : Tag} {s t : State} (h : frameEnd tag s = .ok t) : t.rxIn = s.rxIn := by
  obtain ⟨i, bs, hi, hfree, hroom, hbytes, hfits, rfl⟩ | ⟨i, hi, hfree, -, rfl⟩ | ⟨-, rfl⟩ := frameEnd_cases h
  · rfl
  · rw [release_claimed hi hfree]
    rfl
  · rfl

theorem execRxParityErr_moves {a : Action} {s t : State} (h : execRxParityErr s = .next t) : Moves a s t := by
  obtain ⟨u, hend, hfinish⟩ := orFault_next h
  exact .of_finish (frameEnd_moves [.rxParityErr] hend) hfinish

theorem execRxIdle_moves {a : Action} {s t : State} (h : execRxIdle s = .next t) : Moves a s t := by
  unfold execRxIdle at h
  split at h
  · obtain ⟨u, hend, hfinish⟩ := orFault_next h
    exact .of_finish (frameEnd_moves [.rxIdle] hend) hfinish
  · exact .of_finish .lineIdle h

theorem execFrameEnd_moves {a : Action} {tag : Tag} {s t : State} (h : execFrameEnd tag s = .next t) : Moves a s t := by
  obtain ⟨u, hend, hfinish⟩ := orFault_next h
  have hmove := frameEnd_moves (a := a) [] hend
  rw [List.append_nil, ← frameEnd_rxIn hend] at hmove
  exact .of_finish hmove hfinish

theorem deliver_moves {a : Action} {r : Option TypedCommand} {s t : State} (h : deliver r s = .next t) : Moves a s t := by
  obtain ⟨-, rfl⟩ | ⟨i, rest, hhead, hroom, rfl⟩ := deliver_cases h
  · exact ⟨s, _, .stay, rfl⟩
  · rw [release_prx]
    exact ⟨_, _, .delivered r i rest hhead hroom, rfl⟩

theorem execRxtStep_moves {a : Action} {s t : State} (h : execRxtStep s = .next t) : Moves a s t := by
  unfold execRxtStep at h
  split at h
  · exact .of_hold h
  · obtain ⟨r, -, hdeliver⟩ := orFault_next h
    exact deliver_moves hdeliver

theorem execCmdTake_moves {a : Action} {s t : State} (h : execCmdTake s = .next t) : Moves a s t := by
  unfold execCmdTake at h
  split at h
  · exact .of_hold h
  · rename_i c rest hhead
    exact .of_finish (.cmdTaken c rest hhead) h

theorem txSend_moves {a : Action} {src dst : Byte} {p : List Byte} {s t : State} (h : txSend src dst p s = .next t) :
    Moves a s t := by
  obtain ⟨-, rfl⟩ | ⟨-, -, rfl⟩ | ⟨img, i, himg, hroom, hi, hfree, hfits, rfl⟩ := txSend_cases h
  · exact ⟨s, _, .stay, rfl⟩
  · exact ⟨s, _, .stay, rfl⟩
  · exact ⟨_, _, .txQueued src dst p img i himg hroom hi hfree hfits, rfl⟩

theorem sendStatus_moves {a : Action} {st : TypedStatus} {s t : State} (h : sendStatus st s = .next t) : Moves a s t :=
  txSend_moves h

theorem mayStart_iff (s : State) : mayStart s = true ↔ s.txs = .idle ∧ s.cts = true ∧ s.ctsFallPend = false := by
  simp [mayStart, and_assoc]

theorem execTxtStart_moves {a : Action} {s t : State} (h : execTxtStart s = .next t) : Moves a s t := by
  unfold execTxtStart at h
  split at h
  · exact .of_hold h
  · rename_i i rest hhead
    split at h
    · rename_i hmay
      obtain ⟨hidle, hcts, hfall⟩ := (mayStart_iff s).mp hmay
      exact .of_finish (.txStarted i rest hhead hidle hcts hfall) h
    · exact .of_hold h

theorem readN_one {m : Memory} {a : Nat} {bs : List Byte} (h : Memory.readN m a 1 = some bs) :
    ∃ b, Memory.read m a = some b ∧ bs = [b] := by
  obtain ⟨hlen, hread⟩ := (Memory.readN_eq_some m 1 a bs).mp h
  obtain ⟨b, rfl⟩ := List.length_eq_one_iff.mp hlen
  exact ⟨b, hread 0 Nat.one_pos, rfl⟩

theorem execDmaByte_moves {a : Action} {s t : State} (h : execDmaByte s = .next t) : Moves a s t := by
  unfold execDmaByte at h
  split at h
  · rename_i hactive
    split at h
    · cases h
    · rename_i n hlen
      split at h
      · rename_i hleft
        obtain ⟨bs, hread, hfinish⟩ := orFault_next h
        obtain ⟨b, -, rfl⟩ := readN_one (slotRead_ok hread).2.2
        exact .of_finish (.dmaByte n b hactive hlen hleft) hfinish
      · exact .of_hold h
  · exact .of_hold h

theorem execDmaComplete_moves {a : Action} {s t : State} (h : execDmaComplete s = .next t) : Moves a s t := by
  unfold execDmaComplete at h
  split at h
  · rename_i hactive
    split at h
    · cases h
    · rename_i n hlen
      split at h
      · rename_i hall
        exact .of_finish (.dmaCompleted hactive (hall ▸ hlen)) h
      · exact .of_hold h
  · exact .of_hold h

theorem execCtsFall_moves {a : Action} {s t : State} (h : execCtsFall s = .next t) : Moves a s t := by
  unfold execCtsFall at h
  split at h
  · exact .of_finish .ctsFell h
  · exact .of_hold h

theorem execCtsRise_moves {a : Action} {s t : State} (h : execCtsRise s = .next t) : Moves a s t := by
  unfold execCtsRise at h
  split at h
  · exact .of_hold h
  · exact .of_finish .ctsRose h

theorem execArbStep_moves {a : Action} {s t : State} (h : execArbStep s = .next t) : Moves a s t := by
  unfold execArbStep at h
  split at h
  · split at h
    · rename_i hactive
      exact .of_finish (.aborted hactive) h
    · exact .of_finish .fallIgnored h
  · exact .of_hold h

theorem execTxtWakeColl_moves {a : Action} {s t : State} (h : execTxtWakeColl s = .next t) : Moves a s t := by
  unfold execTxtWakeColl at h
  split at h
  · rename_i hwoken
    split at h
    · rename_i hroom
      exact .of_finish (.requeued hwoken.1 hwoken.2 hroom) h
    · exact .of_hold h
  · exact .of_hold h

theorem execTxtWakeDone_moves {s t : State} (h : execTxtWakeDone s = .next t) : Moves (.op .txtWakeDone) s t := by
  unfold execTxtWakeDone at h
  split at h
  · rename_i hwoken
    rw [release_ptx] at h
    exact .of_finish (.sent hwoken.1 hwoken.2) h
  · exact .of_hold h

theorem execTxtGapEnd_moves {a : Action} {s t : State} (h : execTxtGapEnd s = .next t) : Moves a s t := by
  unfold execTxtGapEnd at h
  split at h
  · rename_i hgap
    exact .of_finish (.gapEnded hgap) h
  · exact .of_hold h

/-- Every instruction's meaning is a move. -/
theorem exec_moves {i : Instr} {s t : State} (h : exec i s = .next t) : Moves (.op i) s t := by
  cases i with
  | poolAlloc p => exact execPoolAlloc_moves h
  | poolTryAlloc p => exact execPoolTryAlloc_moves h
  | poolFree p k => exact execPoolFree_moves h
  | rxByte b => exact execRxByte_moves h
  | rxParityErr => exact execRxParityErr_moves h
  | rxIdle => exact execRxIdle_moves h
  | frameEnd tag => exact execFrameEnd_moves h
  | rxtStep => exact execRxtStep_moves h
  | cmdTake => exact execCmdTake_moves h
  | txSend src dst p => exact txSend_moves h
  | txtStart => exact execTxtStart_moves h
  | dmaByte => exact execDmaByte_moves h
  | dmaComplete => exact execDmaComplete_moves h
  | ctsFall => exact execCtsFall_moves h
  | ctsRise => exact execCtsRise_moves h
  | arbStep => exact execArbStep_moves h
  | txtWakeColl => exact execTxtWakeColl_moves h
  | txtWakeDone => exact execTxtWakeDone_moves h
  | txtGapEnd => exact execTxtGapEnd_moves h
  | xor8 | frameValidate | frameParse | framePopulate | cmdDecode | trackFold | bcd8 | statusEncode =>
    exact .of_finish .stay h
  | traffic | poll | cdcStatus | cdcStop | cdcPause | cdcPlay | cdcFastplay | cdcSeek | cdcAltseek | cdcChangedisc
  | cdcScandisc | cdcRandomize => exact deliver_moves h
  | sendStatus | stStopped | stPaused | stPlaying | stFastplayingF | stFastplayingR | stSeekingF | stSeekingR
  | stLoadingdisc | stCheckingfordisc | announce | pollResponse => exact sendStatus_moves h

/-! The host's steps: a move of the block, and then the host's own fields. -/

/-- The fields no agent of the block reads: the host's own, the schedule and the model's registers. -/
inductive SameBlock (u : State) : State → Prop where
  | mk (cs : ChangerState) (booted : Bool) (announces : Nat) (hostPend : List HostAction) (engineOut : List EngineCmd)
      (sched : List Entry) (pick : Nat) (ret : Ret) (freeCtr : Nat) (connected : u.cs.lifecycle = .connected → cs.lifecycle = .connected)
      (grows : u.engineOut <+: engineOut) :
      SameBlock u { u with
        cs := cs, booted := booted, announces := announces, hostPend := hostPend, engineOut := engineOut, sched := sched
        pick := pick, ret := ret, freeCtr := freeCtr }

/-- `t` is the outcome of a move of the block and a step of the host beside it. -/
def Steps (a : Action) (s t : State) : Prop := ∃ u, Move a s u ∧ SameBlock u t

theorem Moves.steps {a : Action} {s t : State} (h : Moves a s t) : Steps a s t := by
  obtain ⟨u, r, hmove, rfl⟩ := h
  exact ⟨u, hmove, .mk _ _ _ _ _ _ _ r _ id (List.prefix_refl _)⟩

theorem Steps.of_hold {a : Action} {s t : State} (h : hold s = .next t) : Steps a s t := (Moves.of_hold h).steps

/-- A host's send moves the block as a send does; the rest of its step writes the host's fields only. -/
theorem hostSend_steps {a : Action} {st : TypedStatus} {s t : State} {k : State → State} (h : hostSend st s k = .next t)
    (hk : ∀ u, SameBlock u (k u)) : Steps a s t := by
  obtain ⟨w, hsend, hrest⟩ := hostSend_cases h
  obtain ⟨u, r, hmove, rfl⟩ := sendStatus_moves (a := a) hsend
  obtain ⟨-, rfl⟩ | ⟨-, rfl⟩ := hrest
  · exact Moves.steps ⟨u, r, hmove, rfl⟩
  · refine ⟨u, hmove, ?_⟩
    have hsame := hk { u with ret := r }
    generalize k { u with ret := r } = t at hsame
    obtain ⟨⟩ := hsame
    exact .mk _ _ _ _ _ _ _ _ _ ‹_› ‹_›

theorem lifecycle_dispatchState (c : Cfg) (cs : ChangerState) (k : TypedCommand) :
    (dispatchState c cs k).lifecycle = cs.lifecycle := by
  cases k <;> rfl

theorem hostBoot_steps {s t : State} (h : hostBoot s = .next t) : Steps (.host .boot) s t := by
  unfold hostBoot at h
  split at h
  · exact .of_hold h
  · exact hostSend_steps h fun u => .mk _ _ _ _ _ _ _ _ _ id (List.prefix_refl _)

theorem hostAnnounceTick_steps {s t : State} (h : hostAnnounceTick s = .next t) : Steps (.host .announceTick) s t := by
  unfold hostAnnounceTick at h
  split at h
  · exact hostSend_steps h fun u => .mk _ _ _ _ _ _ _ _ _ id (List.prefix_refl _)
  · exact .of_hold h

theorem hostCmd_steps {s t : State} (h : hostCmd s = .next t) : Steps (.host .cmd) s t := by
  unfold hostCmd at h
  split at h
  · split at h
    · exact .of_hold h
    · rename_i c rest hhead
      obtain rfl := eq_of_finish h
      exact ⟨_, .cmdTaken c rest hhead, .mk _ _ _ _ _ _ _ _ _ (fun _ => lifecycle_dispatchState _ _ c) (List.prefix_append _ _)⟩
  · exact .of_hold h

theorem hostReport_steps {a : Action} {p : Play} {s t : State} (h : hostReport p s = .next t) : Steps a s t := by
  obtain rfl := eq_of_finish h
  exact ⟨s, .stay, .mk _ _ _ _ _ _ _ _ _ id (List.prefix_refl _)⟩

theorem hostOpenEvent_steps {a : Action} {e : EngineEvent} {s t : State} (h : hostOpenEvent e s = .next t) : Steps a s t := by
  obtain rfl := eq_of_finish h
  exact ⟨s, .stay, .mk _ _ _ _ _ _ _ _ _ id (List.prefix_append _ _)⟩

theorem hostEngine_steps {e : EngineEvent} {s t : State} (h : hostEngine e s = .next t) : Steps (.host (.engine e)) s t := by
  unfold hostEngine at h
  split at h
  · cases e with
    | playing | paused | stopped => exact hostReport_steps h
    | endOfSong | error => exact hostOpenEvent_steps h
  · exact .of_hold h

theorem hostSensor_steps {b : Byte} {s t : State} (h : hostSensor b s = .next t) : Steps (.host (.sensor b)) s t := by
  unfold hostSensor at h
  split at h
  · split at h
    · obtain rfl := eq_of_finish h
      exact ⟨s, .stay, .mk _ _ _ _ _ _ _ _ _ id (List.prefix_refl _)⟩
    · obtain rfl := eq_of_finish h
      exact ⟨s, .stay, .mk _ _ _ _ _ _ _ _ _ id (List.prefix_append _ _)⟩
  · exact .of_hold h

theorem hostResume_steps {s t : State} (h : hostResume s = .next t) : Steps (.host .resume) s t := by
  unfold hostResume at h
  split at h
  · exact .of_hold h
  · exact hostSend_steps h fun u => .mk _ _ _ _ _ _ _ _ _ id (List.prefix_refl _)
  · exact hostSend_steps h fun u => .mk _ _ _ _ _ _ _ _ _ id (List.prefix_refl _)
  · obtain rfl := eq_of_finish h
    exact ⟨s, .stay, .mk _ _ _ _ _ _ _ _ _ id (List.prefix_refl _)⟩

theorem hostExec_steps {k : HostStep} {s t : State} (h : hostExec k s = .next t) : Steps (.host k) s t := by
  cases k with
  | boot => exact hostBoot_steps h
  | announceTick => exact hostAnnounceTick_steps h
  | cmd => exact hostCmd_steps h
  | engine e => exact hostEngine_steps h
  | sensor b => exact hostSensor_steps h
  | resume => exact hostResume_steps h

theorem perform_steps {a : Action} {s t : State} (h : perform a s = .next t) : Steps a s t := by
  cases a with
  | op i =>
    obtain ⟨-, hexec⟩ | ⟨-, rfl⟩ := issue_cases h
    · exact (exec_moves hexec).steps
    · exact Moves.steps ⟨s, .held, .stay, rfl⟩
  | host k => exact hostExec_steps h

/-- No move reads or writes the schedule or the slot choice, but by the slot it claims. -/
theorem Move.of_takeEntry {a : Action} {e : Entry} {rest : List Entry} {s u : State} (h : Move a (takeEntry e rest s) u) :
    Move a s { u with sched := s.sched, pick := s.pick } := by
  cases h with
  | stay => exact .stay
  | alloc p i hi hfree => exact .alloc p i hi hfree
  | poolFree p k known => exact .poolFree p k known
  | rxStore b room => exact .rxStore b room
  | rxOverrun b => exact .rxOverrun b
  | lineIdle => exact .lineIdle
  | frameQueued tag i bs ev inPool free room bytes fits => exact .frameQueued tag i bs ev inPool free room bytes fits
  | frameDropped ev => exact .frameDropped ev
  | delivered r i rest head room => exact .delivered r i rest head room
  | cmdTaken c rest head => exact .cmdTaken c rest head
  | txQueued src dst p img i image room inPool free fits => exact .txQueued src dst p img i image room inPool free fits
  | txStarted k rest head idle cts noFall => exact .txStarted k rest head idle cts noFall
  | dmaByte n b active len left => exact .dmaByte n b active len left
  | dmaCompleted active len => exact .dmaCompleted active len
  | ctsFell => exact .ctsFell
  | ctsRose => exact .ctsRose
  | aborted active => exact .aborted active
  | fallIgnored => exact .fallIgnored
  | requeued sending collision room => exact .requeued sending collision room
  | sent sending done => exact .sent sending done
  | gapEnded gap => exact .gapEnded gap

/-- Every step is a move of the block, and a step of the host beside it; an operation's move is of the entry scheduled next. -/
theorem step_steps {s t : State} (h : step s = .next t) :
    ∃ a, (∀ i, a = .op i → ∃ k rest, s.sched = ⟨k, .op i⟩ :: rest) ∧ Steps a s t := by
  obtain ⟨-, ⟨-, rfl⟩ | ⟨⟨k, act⟩, rest, hcons, hperform⟩⟩ := step_cases h
  · exact ⟨.host .resume, nofun, Moves.steps ⟨t, t.ret, .stay, rfl⟩⟩
  · obtain ⟨u, hmove, hsame⟩ := perform_steps hperform
    refine ⟨act, fun i hi => ⟨k, rest, by rw [hcons, hi]⟩, _, hmove.of_takeEntry, ?_⟩
    obtain ⟨⟩ := hsame
    exact .mk _ _ _ _ _ _ _ _ _ ‹_› ‹_›

end Sys2Proof.Machine

/-! ### PROOFS. The run invariant: ownership, storage, and that every disciplined step keeps it -/

namespace Sys2Proof.Machine

/-! Ownership: a list of indices against the bits of a pool. -/

/-- The list names, once each, exactly the slots whose bit is set (R26). -/
def Tracks (l : List Nat) (bits : List Bool) : Prop := l.Nodup ∧ ∀ i, i ∈ l ↔ bits[i]? = some true

theorem Tracks.of_perm {l l' : List Nat} {bits : List Bool} (h : Tracks l bits) (hperm : l.Perm l') : Tracks l' bits :=
  ⟨hperm.nodup h.1, fun i => hperm.mem_iff.symm.trans (h.2 i)⟩

theorem Tracks.not_mem_of_free {l : List Nat} {bits : List Bool} {i : Nat} (h : Tracks l bits) (hfree : bits[i]? = some false) :
    i ∉ l := fun hi => by
  rw [(h.2 i).mp hi] at hfree
  cases hfree

/-- A free slot claimed gets its one owner. -/
theorem Tracks.acquire {l : List Nat} {bits : List Bool} {i : Nat} (h : Tracks l bits) (hfree : bits[i]? = some false) :
    Tracks (i :: l) (bits.set i true) := by
  refine ⟨List.nodup_cons.mpr ⟨h.not_mem_of_free hfree, h.1⟩, fun j => ?_⟩
  have hlt : i < bits.length := (List.getElem?_eq_some_iff.mp hfree).1
  by_cases hji : j = i
  · subst hji
    simp [hlt]
  · simp [hji, h.2 j, List.getElem?_set_ne (Ne.symm hji)]

/-- A slot freed loses its one owner. -/
theorem Tracks.release {l : List Nat} {bits : List Bool} {i : Nat} (h : Tracks (i :: l) bits) : Tracks l (bits.set i false) := by
  obtain ⟨hi, hl⟩ := List.nodup_cons.mp h.1
  refine ⟨hl, fun j => ?_⟩
  by_cases hji : j = i
  · subst hji
    have hlt : j < bits.length := (List.getElem?_eq_some_iff.mp ((h.2 j).mp List.mem_cons_self)).1
    simp [hlt, hi]
  · rw [List.getElem?_set_ne (Ne.symm hji), ← h.2 j]
    simp [hji]

theorem mem_heldIn {s : State} {p : Pool} {i : Nat} : i ∈ heldIn s p ↔ (⟨p, i⟩ : Handle) ∈ s.held := by
  simp only [heldIn, List.mem_map, List.mem_filter, beq_iff_eq]
  constructor
  · rintro ⟨k, ⟨hk, rfl⟩, rfl⟩
    exact hk
  · exact fun h => ⟨_, ⟨h, rfl⟩, rfl⟩

theorem mem_owned_of_held {s : State} {p : Pool} {i : Nat} (h : (⟨p, i⟩ : Handle) ∈ s.held) : i ∈ owned s p := by
  cases p
  · exact List.mem_append_right _ (mem_heldIn.mpr h)
  · exact List.mem_append_right _ (mem_heldIn.mpr h)

theorem Inv.tracks {s : State} (h : Inv s) (p : Pool) : Tracks (owned s p) (s.slots p).inUse :=
  ⟨h.ownedOnce p, h.ownedInUse p⟩

theorem Inv.tracks_prx {s : State} (h : Inv s) : Tracks (s.rxq ++ heldIn s .prx) s.prx.inUse := h.tracks .prx

theorem Inv.tracks_ptx {s : State} (h : Inv s) : Tracks (inFlight s ++ s.txq ++ heldIn s .ptx) s.ptx.inUse := h.tracks .ptx

/-- The handles of pool `p` among a list of held handles. -/
theorem heldIn_eq (s : State) (p : Pool) : heldIn s p = (s.held.filter fun h => h.pool == p).map Handle.idx := rfl

theorem heldIn_perm_of_erase {s u : State} {k : Handle} (hk : k ∈ s.held) (hu : u.held = s.held.erase k) (p : Pool) :
    (heldIn s p).Perm ((if k.pool = p then [k.idx] else []) ++ heldIn u p) := by
  rw [heldIn_eq, heldIn_eq, hu]
  refine (((List.perm_cons_erase hk).filter _).map _).trans ?_
  by_cases hp : k.pool = p <;> simp [hp]

/-! Storage: what has been written stays written. -/

theorem written_iff (m : Memory) (a n : Nat) : written m a n ↔ ∀ k, k < n → (Memory.read m (a + k)).isSome = true := by
  unfold written
  induction n generalizing a with
  | zero => simp [Memory.readN]
  | succ n ih =>
    have hsplit : (Memory.readN m a (n + 1)).isSome = true
        ↔ (Memory.read m a).isSome = true ∧ (Memory.readN m (a + 1) n).isSome = true := by
      simp only [Memory.readN]
      cases Memory.read m a <;> cases Memory.readN m (a + 1) n <;> simp
    rw [hsplit, ih]
    constructor
    · rintro ⟨h0, hrest⟩ k hk
      cases k with
      | zero => exact h0
      | succ k =>
        have := hrest k (by omega)
        rwa [Nat.add_right_comm, Nat.add_assoc] at this
    · intro h
      refine ⟨h 0 (by omega), fun k hk => ?_⟩
      have := h (k + 1) (by omega)
      rwa [← Nat.add_assoc, Nat.add_right_comm] at this

theorem written_writeN {m : Memory} {a n : Nat} (h : written m a n) (b : Nat) (bs : List Byte) :
    written (Memory.writeN m b bs) a n :=
  (written_iff _ a n).mpr fun k hk => Memory.isSome_read_writeN m b _ bs ((written_iff m a n).mp h k hk)

theorem written_writeN_self (m : Memory) (a : Nat) (bs : List Byte) : written (Memory.writeN m a bs) a bs.length := by
  rw [written, Memory.readN_writeN_self]
  rfl

theorem written_zero (m : Memory) (a : Nat) : written m a 0 := rfl

/-- One more byte written at the end of what was. -/
theorem written_write_end {m : Memory} {a n : Nat} (h : written m a n) (b : Byte) :
    written (Memory.write m (a + n) b) a (n + 1) := by
  refine (written_iff _ _ _).mpr fun k hk => ?_
  rw [Memory.read_write]
  split
  · rfl
  · exact (written_iff m a n).mp h k (by omega)

/-- Every address after writing a sequence is an old one or one of those written. -/
theorem Memory.mem_writeN (bs : List Byte) : ∀ (m : Memory) (a : Nat), ∀ d ∈ Memory.writeN m a bs,
    d.1 < a + bs.length ∨ d ∈ m := by
  induction bs with
  | nil => exact fun m a d hd => .inr hd
  | cons b bs ih =>
    intro m a d hd
    rcases ih _ _ d hd with hlt | hold
    · exact .inl (by simp only [List.length_cons]; omega)
    · rcases Memory.mem_write m a b d hold with heq | hold
      · exact .inl (by simp only [List.length_cons]; omega)
      · exact .inr hold

/-! The layout of storage, for a configuration within its constraints (R60, R62). -/

theorem sizes_of_wf {c : Cfg} (h : c.wf = true) : 1 ≤ c.nRx ∧ 1 ≤ c.nTx ∧ 1 ≤ c.rxqCap ∧ 1 ≤ c.txqCap ∧ 1 ≤ c.cmdqCap
    ∧ 33 ≤ c.slotBytes ∧ 4 ≤ c.rxCap ∧ c.rxCap ≤ c.slotBytes := by
  have hpayload := maxPayload_of_wf h
  have hmin := minFrameBytes_of_wf h
  simp only [Cfg.wf, Cfg.sizesOk, Bool.and_eq_true, decide_eq_true_eq] at h
  omega

theorem slotBase_prx_succ (c : Cfg) (i : Nat) : slotBase c .prx i + c.slotBytes = (i + 1) * c.slotBytes :=
  (Nat.succ_mul i c.slotBytes).symm

theorem slotBase_ptx_succ (c : Cfg) (i : Nat) : slotBase c .ptx i + c.slotBytes = (c.nRx + i + 1) * c.slotBytes :=
  (Nat.succ_mul (c.nRx + i) c.slotBytes).symm

/-- The slots of the receive pool lie below those of the transmit pool. -/
theorem slotBase_prx_end {c : Cfg} {i : Nat} (hi : i < c.nRx) : slotBase c .prx i + c.slotBytes ≤ slotBase c .ptx 0 := by
  rw [slotBase_prx_succ]
  exact Nat.mul_le_mul_right _ (by omega)

/-- The slots of the transmit pool lie below `rx_buf`. -/
theorem slotBase_ptx_end {c : Cfg} {i : Nat} (hi : i < c.nTx) : slotBase c .ptx i + c.slotBytes ≤ rxBufBase c := by
  rw [slotBase_ptx_succ]
  exact Nat.mul_le_mul_right _ (by omega)

theorem slotBase_ptx_zero_le (c : Cfg) (i : Nat) : slotBase c .ptx 0 ≤ slotBase c .ptx i :=
  Nat.mul_le_mul_right _ (by omega)

theorem slotBase_ptx_zero_le_rxBufBase (c : Cfg) : slotBase c .ptx 0 ≤ rxBufBase c :=
  Nat.mul_le_mul_right _ (by omega)

/-- Two slots of the transmit pool do not overlap. -/
theorem slotBase_ptx_disjoint (c : Cfg) {i j : Nat} (hij : i ≠ j) :
    slotBase c .ptx i + c.slotBytes ≤ slotBase c .ptx j ∨ slotBase c .ptx j + c.slotBytes ≤ slotBase c .ptx i := by
  rw [slotBase_ptx_succ, slotBase_ptx_succ]
  rcases Nat.lt_or_gt_of_ne hij with h | h
  · exact .inl (Nat.mul_le_mul_right _ (by omega))
  · exact .inr (Nat.mul_le_mul_right _ (by omega))

theorem hasRoom_iff {α : Type} (q : List α) (cap : Nat) : hasRoom q cap = true ↔ q.length < cap := by
  simp [hasRoom]

theorem scratchBytes_ok {s : State} {bs : List Byte} (h : scratchBytes s = .ok bs) :
    s.rxCnt ≤ s.cfg.rxCap ∧ Memory.readN s.mem (rxBufBase s.cfg) s.rxCnt = some bs := by
  unfold scratchBytes at h
  split at h
  · rename_i hfits
    split at h
    · rename_i bs' hread
      exact ⟨hfits, by rw [hread, Except.ok.inj h]⟩
    · cases h
  · cases h

theorem framePopulate_length {c : Cfg} {src dst : Byte} {p img : List Byte} (h : framePopulate c src dst p = some img) :
    img.length ≤ c.maxFrameTx := by
  unfold framePopulate at h
  split_ifs at h with hp
  obtain rfl := Option.some.inj h
  simp only [frameImage, frameHead, List.length_append, List.length_cons, List.length_nil, Cfg.maxFrameTx]
  omega

/-! Each move keeps the invariant. -/

theorem Inv.of_sameBlock {u t : State} (h : Inv u) (hsame : SameBlock u t) : Inv t := by
  obtain ⟨⟩ := hsame
  exact { h with }

theorem Inv.alloc {s : State} (h : Inv s) {p : Pool} {i : Nat} (free : (s.slots p).inUse[i]? = some false) :
    Inv { s.setInUse p i true with held := ⟨p, i⟩ :: s.held } := by
  cases p with
  | prx =>
    have hprx : Tracks (s.rxq ++ (i :: heldIn s .prx)) (s.prx.inUse.set i true) :=
      (h.tracks_prx.acquire free).of_perm List.perm_middle.symm
    exact { h with
      prxBits := (List.length_set ..).trans h.prxBits
      ownedOnce := fun | .prx => hprx.1 | .ptx => h.tracks_ptx.1
      ownedInUse := fun | .prx => hprx.2 | .ptx => h.tracks_ptx.2 }
  | ptx =>
    have hptx : Tracks (inFlight s ++ s.txq ++ (i :: heldIn s .ptx)) (s.ptx.inUse.set i true) :=
      (h.tracks_ptx.acquire free).of_perm List.perm_middle.symm
    exact { h with
      ptxBits := (List.length_set ..).trans h.ptxBits
      ownedOnce := fun | .prx => h.tracks_prx.1 | .ptx => hptx.1
      ownedInUse := fun | .prx => h.tracks_prx.2 | .ptx => hptx.2 }

theorem Inv.poolFree {s : State} (h : Inv s) {p : Pool} {k : Handle} (hpool : k.pool = p) (hheld : k ∈ s.held) :
    Inv { s.setInUse p k.idx false with held := s.held.erase k } := by
  subst hpool
  have hperm := heldIn_perm_of_erase (u := { s.setInUse k.pool k.idx false with held := s.held.erase k }) hheld rfl
  obtain ⟨pool, i⟩ := k
  cases pool with
  | prx =>
    have hprx := ((h.tracks_prx.of_perm ((hperm .prx).append_left s.rxq)).of_perm List.perm_middle).release
    have hptx := h.tracks_ptx.of_perm ((hperm .ptx).append_left _)
    exact { h with
      prxBits := (List.length_set ..).trans h.prxBits
      ownedOnce := fun | .prx => hprx.1 | .ptx => hptx.1
      ownedInUse := fun | .prx => hprx.2 | .ptx => hptx.2 }
  | ptx =>
    have hprx := h.tracks_prx.of_perm ((hperm .prx).append_left s.rxq)
    have hptx := ((h.tracks_ptx.of_perm ((hperm .ptx).append_left _)).of_perm List.perm_middle).release
    exact { h with
      ptxBits := (List.length_set ..).trans h.ptxBits
      ownedOnce := fun | .prx => hprx.1 | .ptx => hptx.1
      ownedInUse := fun | .prx => hprx.2 | .ptx => hptx.2 }

/-- A write inside storage keeps the addresses inside. -/
theorem memInside_writeN {c : Cfg} {m : Memory} (h : ∀ cell ∈ m, cell.1 < memSize c) {a : Nat} {bs : List Byte}
    (hend : a + bs.length ≤ memSize c) : ∀ cell ∈ Memory.writeN m a bs, cell.1 < memSize c := fun cell hcell =>
  (Memory.mem_writeN bs m a cell hcell).elim (fun hlt => by omega) (h cell)

/-- Every slot a queue names has a length, within the cap, and that many bytes of it have been written (R50). -/
def Readable (q lens : List Nat) (m : Memory) (base : Nat → Nat) (cap : Nat) : Prop :=
  ∀ j ∈ q, ∃ n, lens[j]? = some n ∧ n ≤ cap ∧ written m (base j) n

theorem Inv.rxReadable {s : State} (h : Inv s) : Readable s.rxq s.prx.len s.mem (slotBase s.cfg .prx) s.cfg.rxCap :=
  h.rxWritten

theorem Inv.txReadable {s : State} (h : Inv s) :
    Readable (inFlight s ++ s.txq) s.ptx.len s.mem (slotBase s.cfg .ptx) s.cfg.maxFrameTx :=
  h.txWritten

section
variable {q lens : List Nat} {m : Memory} {base : Nat → Nat} {cap : Nat}

/-- What is queued stays readable when storage is written. -/
theorem Readable.writeN (h : Readable q lens m base cap) (a : Nat) (bs : List Byte) :
    Readable q lens (Memory.writeN m a bs) base cap := fun j hj => by
  obtain ⟨n, hn, hcap, hw⟩ := h j hj
  exact ⟨n, hn, hcap, written_writeN hw a bs⟩

/-- A slot filled and pushed on its queue is readable beside the others. -/
theorem Readable.push (h : Readable q lens m base cap) {i : Nat} {bs : List Byte} (hi : i < lens.length) (hnew : i ∉ q)
    (hcap : bs.length ≤ cap) : Readable (q ++ [i]) (lens.set i bs.length) (Memory.writeN m (base i) bs) base cap :=
  fun j hj => by
    rcases List.mem_append.mp hj with hold | hlast
    · obtain ⟨n, hn, hle, hw⟩ := h j hold
      have hij : i ≠ j := fun heq => hnew (heq ▸ hold)
      exact ⟨n, by rw [List.getElem?_set_ne hij, hn], hle, written_writeN hw _ bs⟩
    · obtain rfl := List.mem_singleton.mp hlast
      exact ⟨bs.length, by simp [hi], hcap, written_writeN_self m _ bs⟩

end

theorem Inv.rxStore {s : State} (h : Inv s) (b : Byte) (room : s.rxCnt < s.cfg.rxCap) :
    Inv { s with
      mem := Memory.write s.mem (rxBufBase s.cfg + s.rxCnt) b, rxCnt := s.rxCnt + 1, rxIn := s.rxIn ++ [.rxByte b] } :=
  { h with
    memCanonical := Memory.wf_write _ _ _ h.memCanonical
    memInside := memInside_writeN (bs := [b]) h.memInside (by
      simp only [List.length_cons, List.length_nil, memSize]
      omega)
    scratchFits := room
    scratchWritten := written_write_end h.scratchWritten b
    rxWritten := h.rxReadable.writeN _ [b]
    txWritten := h.txReadable.writeN _ [b] }

theorem Inv.frameQueued {s : State} (h : Inv s) (tag : Tag) {i : Nat} {bs : List Byte} (ev : List EnvEvent)
    (inPool : i < s.cfg.nRx) (free : s.prx.inUse[i]? = some false) (room : hasRoom s.rxq s.cfg.rxqCap = true)
    (bytes : scratchBytes s = .ok bs) (fits : bs.length ≤ s.cfg.slotBytes) :
    Inv { s with
      prx := ⟨s.prx.inUse.set i true, s.prx.len.set i s.rxCnt⟩, prxTag := s.prxTag.set i tag
      mem := Memory.writeN s.mem (slotBase s.cfg .prx i) bs, rxq := s.rxq ++ [i], rxCnt := 0, rxTag := .ok
      rxIn := s.rxIn ++ ev } := by
  obtain ⟨hcap, hread⟩ := scratchBytes_ok bytes
  have hlen : bs.length = s.rxCnt := ((Memory.readN_eq_some _ _ _ _).mp hread).1
  have hprx : Tracks (s.rxq ++ [i] ++ heldIn s .prx) (s.prx.inUse.set i true) := by
    refine (h.tracks_prx.acquire free).of_perm ?_
    rw [List.append_assoc]
    exact List.perm_middle.symm
  have hnew : i ∉ s.rxq := fun hi => h.tracks_prx.not_mem_of_free free (List.mem_append_left _ hi)
  have hend := slotBase_prx_end inPool
  have hbuf := slotBase_ptx_zero_le_rxBufBase s.cfg
  exact { h with
    prxBits := (List.length_set ..).trans h.prxBits
    prxLens := (List.length_set ..).trans h.prxLens
    prxTags := (List.length_set ..).trans h.prxTags
    memCanonical := Memory.wf_writeN _ _ _ h.memCanonical
    memInside := memInside_writeN h.memInside (by unfold memSize; omega)
    scratchFits := Nat.zero_le _
    scratchWritten := written_zero _ _
    rxqFits := by
      have := (hasRoom_iff _ _).mp room
      simp only [List.length_append, List.length_cons, List.length_nil]
      omega
    ownedOnce := fun | .prx => hprx.1 | .ptx => h.tracks_ptx.1
    ownedInUse := fun | .prx => hprx.2 | .ptx => h.tracks_ptx.2
    rxWritten := by
      have := h.rxReadable.push (by rw [h.prxLens]; exact inPool) hnew (by rw [hlen]; exact hcap)
      rwa [hlen] at this
    txWritten := h.txReadable.writeN _ bs }

theorem Inv.frameDropped {s : State} (h : Inv s) (ev : List EnvEvent) :
    Inv { s with rxCnt := 0, rxTag := .ok, rxIn := s.rxIn ++ ev } :=
  { h with scratchFits := Nat.zero_le _, scratchWritten := written_zero _ _ }

/-- A slot with an owner lies in its pool, so freeing it clears its bit. -/
theorem freed_of_tracks {n i : Nat} {l : List Nat} {bits : List Bool} (h : Tracks (i :: l) bits) (hn : bits.length = n) :
    Tracks l (freed n bits i) := by
  have hlt : i < bits.length := (List.getElem?_eq_some_iff.mp ((h.2 i).mp List.mem_cons_self)).1
  rw [freed, if_pos (hn ▸ hlt)]
  exact h.release

theorem length_freed (n : Nat) (bits : List Bool) (i : Nat) : (freed n bits i).length = bits.length := by
  unfold freed
  split
  · exact List.length_set
  · rfl

theorem Inv.delivered {s : State} (h : Inv s) {r : Option TypedCommand} {i : Nat} {rest : List Nat} (head : s.rxq = i :: rest)
    (room : r = none ∨ hasRoom s.cmdq s.cfg.cmdqCap = true) :
    Inv { s with
      rxq := rest, cmdq := s.cmdq ++ r.toList, prx := { s.prx with inUse := freed s.cfg.nRx s.prx.inUse i } } := by
  have howned := h.tracks_prx
  have hqueue := h.rxqFits
  have hwritten := h.rxWritten
  rw [head] at howned hqueue hwritten
  have hprx := freed_of_tracks howned h.prxBits
  exact { h with
    prxBits := (length_freed ..).trans h.prxBits
    rxqFits := Nat.le_of_succ_le hqueue
    cmdqFits := by
      have := h.cmdqFits
      rcases room with rfl | hroom
      · simpa using this
      · have := (hasRoom_iff _ _).mp hroom
        cases r <;> simp <;> omega
    ownedOnce := fun | .prx => hprx.1 | .ptx => h.tracks_ptx.1
    ownedInUse := fun | .prx => hprx.2 | .ptx => h.tracks_ptx.2
    rxWritten := fun j hj => hwritten j (List.mem_cons_of_mem i hj) }

theorem Inv.cmdTaken {s : State} (h : Inv s) {c : TypedCommand} {rest : List TypedCommand} (head : s.cmdq = c :: rest) :
    Inv { s with cmdq := rest, cmdOut := s.cmdOut ++ [c] } := by
  have hqueue := h.cmdqFits
  rw [head] at hqueue
  exact { h with cmdqFits := Nat.le_of_succ_le hqueue }

theorem Inv.txQueued {s : State} (h : Inv s) {src dst : Byte} {p img : List Byte} {i : Nat}
    (image : framePopulate s.cfg src dst p = some img) (room : hasRoom s.txq s.cfg.txqCap = true) (inPool : i < s.cfg.nTx)
    (free : s.ptx.inUse[i]? = some false) (fits : img.length ≤ s.cfg.slotBytes) :
    Inv { s with
      ptx := ⟨s.ptx.inUse.set i true, s.ptx.len.set i img.length⟩
      mem := Memory.writeN s.mem (slotBase s.cfg .ptx i) img, txq := s.txq ++ [i] } := by
  have hptx : Tracks (inFlight s ++ (s.txq ++ [i]) ++ heldIn s .ptx) (s.ptx.inUse.set i true) := by
    refine (h.tracks_ptx.acquire free).of_perm ?_
    rw [← List.append_assoc, List.append_assoc (inFlight s ++ s.txq)]
    exact List.perm_middle.symm
  have hnew : i ∉ inFlight s ++ s.txq := fun hi => h.tracks_ptx.not_mem_of_free free (List.mem_append_left _ hi)
  have hend := slotBase_ptx_end inPool
  exact { h with
    ptxBits := (List.length_set ..).trans h.ptxBits
    ptxLens := (List.length_set ..).trans h.ptxLens
    memCanonical := Memory.wf_writeN _ _ _ h.memCanonical
    memInside := memInside_writeN h.memInside (by unfold memSize; omega)
    scratchWritten := written_writeN h.scratchWritten _ img
    txqFits := by
      have := (hasRoom_iff _ _).mp room
      simp only [List.length_append, List.length_cons, List.length_nil]
      omega
    ownedOnce := fun | .prx => h.tracks_prx.1 | .ptx => hptx.1
    ownedInUse := fun | .prx => h.tracks_prx.2 | .ptx => hptx.2
    rxWritten := h.rxReadable.writeN _ img
    txWritten := by
      have := h.txReadable.push (by rw [h.ptxLens]; exact inPool) hnew (framePopulate_length image)
      rwa [List.append_assoc] at this
    dmaInside := fun hactive n hn => by
      have hsending := (h.dmaSending hactive).1
      have hcur : i ≠ s.txCur := fun heq => hnew (by simp [inFlight, hsending, heq])
      exact h.dmaInside hactive n (by rwa [List.getElem?_set_ne hcur] at hn) }

theorem inFlight_of_sending {s : State} (h : s.txs = .sending) : inFlight s = [s.txCur] := if_pos h

theorem inFlight_of_not_sending {s : State} (h : s.txs ≠ .sending) : inFlight s = [] := if_neg h

theorem Inv.txStarted {s : State} (h : Inv s) {k : Nat} {rest : List Nat} (head : s.txq = k :: rest) (idle : s.txs = .idle) :
    Inv { s with
      txCur := k, txq := rest, dmaIdx := 0, dmaActive := true, txWake := .none, txs := .sending
      lineOut := s.lineOut ++ [.start k] } := by
  have hflight := inFlight_of_not_sending (s := s) (by rw [idle]; decide)
  have hptx := h.tracks_ptx
  have hwritten := h.txWritten
  have hqueue := h.txqFits
  rw [hflight, head] at hptx hwritten
  rw [head] at hqueue
  exact { h with
    txqFits := Nat.le_of_succ_le hqueue
    ownedOnce := fun | .prx => h.tracks_prx.1 | .ptx => hptx.1
    ownedInUse := fun | .prx => h.tracks_prx.2 | .ptx => hptx.2
    txWritten := hwritten
    dmaSending := fun _ => ⟨rfl, rfl⟩
    sendingWakes := fun _ hoff => by cases hoff
    wakeSending := fun hne => absurd rfl hne
    dmaInside := fun _ n _ => Nat.zero_le n }

theorem Inv.dmaByte {s : State} (h : Inv s) {n : Nat} (b : Byte) (len : transferLen s = some n) (left : s.dmaIdx < n) :
    Inv { s with lineOut := s.lineOut ++ [.byte b], dmaIdx := s.dmaIdx + 1 } :=
  { h with
    dmaInside := fun _ m hm => by
      obtain rfl : n = m := Option.some.inj (len.symm.trans hm)
      exact left }

theorem Inv.dmaCompleted {s : State} (h : Inv s) (active : s.dmaActive = true) :
    Inv { s with dmaActive := false, txWake := postDone s.txWake, lineOut := s.lineOut ++ [.complete] } := by
  obtain ⟨hsending, hwake⟩ := h.dmaSending active
  exact { h with
    dmaSending := fun hon => by cases hon
    sendingWakes := fun _ _ => by simp [postDone, hwake]
    wakeSending := fun hne => absurd hsending hne
    dmaInside := fun hon => by cases hon }

theorem Inv.aborted {s : State} (h : Inv s) (active : s.dmaActive = true) :
    Inv { s with
      ctsFallPend := false, dmaActive := false, txWake := .collision, lineOut := s.lineOut ++ [.abort s.dmaIdx] } := by
  obtain ⟨hsending, -⟩ := h.dmaSending active
  exact { h with
    dmaSending := fun hon => by cases hon
    sendingWakes := fun _ _ => nofun
    wakeSending := fun hne => absurd hsending hne
    dmaInside := fun hon => by cases hon }

/-- A reason posted means that the transfer has ended. -/
theorem Inv.not_active_of_woken {s : State} (h : Inv s) (hwake : s.txWake ≠ .none) : s.dmaActive = false :=
  Bool.eq_false_iff.mpr fun hactive => hwake (h.dmaSending hactive).2

theorem Inv.requeued {s : State} (h : Inv s) (sending : s.txs = .sending) (collision : s.txWake = .collision)
    (room : hasRoom s.txq s.cfg.txqCap = true) : Inv { s with txq := s.txCur :: s.txq, txWake := .none, txs := .idle } := by
  have hoff := h.not_active_of_woken (by rw [collision]; decide)
  have hptx := h.tracks_ptx
  have hwritten := h.txWritten
  rw [inFlight_of_sending sending] at hptx hwritten
  exact { h with
    txqFits := (hasRoom_iff _ _).mp room
    ownedOnce := fun | .prx => h.tracks_prx.1 | .ptx => hptx.1
    ownedInUse := fun | .prx => h.tracks_prx.2 | .ptx => hptx.2
    txWritten := hwritten
    dmaSending := fun hon => absurd hon (by simp [hoff])
    sendingWakes := fun hs => by cases hs
    wakeSending := fun _ => rfl
    dmaInside := fun hon => absurd hon (by simp [hoff]) }

theorem Inv.sent {s : State} (h : Inv s) (sending : s.txs = .sending) (done : s.txWake = .done) :
    Inv { s with ptx := { s.ptx with inUse := freed s.cfg.nTx s.ptx.inUse s.txCur }, txWake := .none, txs := .gap } := by
  have hoff := h.not_active_of_woken (by rw [done]; decide)
  have hwritten := h.txWritten
  have howned := h.tracks_ptx
  rw [inFlight_of_sending sending] at hwritten howned
  have hptx := freed_of_tracks howned h.ptxBits
  exact { h with
    ptxBits := (length_freed ..).trans h.ptxBits
    ownedOnce := fun | .prx => h.tracks_prx.1 | .ptx => hptx.1
    ownedInUse := fun | .prx => h.tracks_prx.2 | .ptx => hptx.2
    txWritten := fun j hj => hwritten j (List.mem_cons_of_mem _ hj)
    dmaSending := fun hon => absurd hon (by simp [hoff])
    sendingWakes := fun hs => by cases hs
    wakeSending := fun _ => rfl
    dmaInside := fun hon => absurd hon (by simp [hoff]) }

theorem Inv.gapEnded {s : State} (h : Inv s) (gap : s.txs = .gap) : Inv { s with txs := .idle } := by
  have hnot : s.txs ≠ .sending := by rw [gap]; decide
  have hptx := h.tracks_ptx
  have hwritten := h.txWritten
  rw [inFlight_of_not_sending hnot] at hptx hwritten
  exact { h with
    ownedOnce := fun | .prx => h.tracks_prx.1 | .ptx => hptx.1
    ownedInUse := fun | .prx => h.tracks_prx.2 | .ptx => hptx.2
    txWritten := hwritten
    dmaSending := fun hon => absurd (h.dmaSending hon).1 hnot
    sendingWakes := fun hs => by cases hs
    wakeSending := fun _ => h.wakeSending hnot }

/-- Every move keeps the invariant, if a `POOL_FREE` is of a handle its caller holds (R360). -/
theorem Inv.of_move {a : Action} {s u : State} (h : Inv s) (hmove : Move a s u)
    (hdisciplined : ∀ i, a = .op i → Disciplined s i) : Inv u := by
  cases hmove with
  | stay => exact h
  | alloc p i _ free => exact h.alloc free
  | poolFree p k known =>
    have hpool : k.pool = p := by
      simp only [recognised, Bool.and_eq_true, decide_eq_true_eq] at known
      exact known.1
    exact h.poolFree hpool (hdisciplined _ rfl known)
  | rxStore b room => exact h.rxStore b room
  | rxOverrun | lineIdle | ctsFell | ctsRose | fallIgnored => exact { h with }
  | frameQueued tag i bs ev inPool free room bytes fits => exact h.frameQueued tag ev inPool free room bytes fits
  | frameDropped ev => exact h.frameDropped ev
  | delivered r i rest head room => exact h.delivered head room
  | cmdTaken c rest head => exact h.cmdTaken head
  | txQueued src dst p img i image room inPool free fits => exact h.txQueued image room inPool free fits
  | txStarted k rest head idle => exact h.txStarted head idle
  | dmaByte n b _ len left => exact h.dmaByte b len left
  | dmaCompleted active => exact h.dmaCompleted active
  | aborted active => exact h.aborted active
  | requeued sending collision room => exact h.requeued sending collision room
  | sent sending done => exact h.sent sending done
  | gapEnded gap => exact h.gapEnded gap

theorem disciplined_of_next {s : State} {k : Nat} {i : Instr} {rest : List Entry} (h : NextDisciplined s)
    (hsched : s.sched = ⟨k, .op i⟩ :: rest) : Disciplined s i := by
  simpa only [NextDisciplined, hsched] using h

/-- Settles O46: the move keeps the invariant, and the host's own fields are not in it. -/
theorem everyStepKeepsTheRunInvariant : Obligations.EveryStepKeepsTheRunInvariant := by
  intro s t h hnext hstep
  obtain ⟨a, hop, u, hmove, hsame⟩ := step_steps hstep
  refine (h.of_move hmove fun i hi => ?_).of_sameBlock hsame
  obtain ⟨k, rest, hsched⟩ := hop i hi
  exact disciplined_of_next hnext hsched

end Sys2Proof.Machine

/-! ### PROOFS. The pool operations and the receive path (spec/40_frame_pool.md, spec/41_rx_framer.md): what each operation does, case
by case -/

namespace Sys2Proof.Machine

/-! The pool operations. -/

theorem claim_of_choose {s : State} {p : Pool} {i : Nat} (h : chooseFree (s.slots p).inUse (s.cfg.slotCount p) s.pick = some i) :
    claim s p = some (i, s.setInUse p i true) := by
  rw [claim, h]

theorem exists_choose {s : State} {p : Pool} (h : ∃ i, i < s.cfg.slotCount p ∧ (s.slots p).inUse[i]? = some false) :
    ∃ i, i < s.cfg.slotCount p ∧ (s.slots p).inUse[i]? = some false
      ∧ chooseFree (s.slots p).inUse (s.cfg.slotCount p) s.pick = some i := by
  cases hchoose : chooseFree (s.slots p).inUse (s.cfg.slotCount p) s.pick with
  | none =>
    obtain ⟨i, hi, hfree⟩ := h
    exact absurd hfree ((chooseFree_none _ _ _).mp hchoose i hi)
  | some i =>
    obtain ⟨hi, hfree⟩ := chooseFree_some hchoose
    exact ⟨i, hi, hfree, rfl⟩

theorem claims_of_setInUse (s : State) (p : Pool) (i : Nat) (r : Ret) :
    Claims s (.next { s.setInUse p i true with held := ⟨p, i⟩ :: s.held, ret := r }) p i r := by
  cases p <;> rfl

theorem exec_poolAlloc_of_claim {s t : State} {p : Pool} {i : Nat} (h : claim s p = some (i, t)) :
    exec (.poolAlloc p) s = .next { t with held := ⟨p, i⟩ :: s.held, ret := .handle ⟨p, i⟩ } := by
  change execPoolAlloc p s = _
  simp only [execPoolAlloc, h, finish]

theorem exec_poolTryAlloc_of_claim {s t : State} {p : Pool} {i : Nat} (h : claim s p = some (i, t)) :
    exec (.poolTryAlloc p) s = .next { t with held := ⟨p, i⟩ :: s.held, ret := .tryHandle (some ⟨p, i⟩) } := by
  change execPoolTryAlloc p s = _
  simp only [execPoolTryAlloc, h, finish]

theorem exec_poolAlloc_of_exhausted {s : State} {p : Pool} (h : claim s p = none) : Holds s (exec (.poolAlloc p) s) := by
  change execPoolAlloc p s = _
  simp only [execPoolAlloc, h, hold, finish]

theorem exec_poolTryAlloc_of_exhausted {s : State} {p : Pool} (h : claim s p = none) :
    Returns s (exec (.poolTryAlloc p) s) (.tryHandle none) := by
  change execPoolTryAlloc p s = _
  simp only [execPoolTryAlloc, h, finish]

/-- Settles O1: both operations act on the claim of the pool. -/
theorem poolAllocationClaimsOneFreeSlot : Obligations.PoolAllocationClaimsOneFreeSlot := by
  intro s p
  constructor
  · intro hfree
    obtain ⟨i, hi, hbit, hchoose⟩ := exists_choose hfree
    have hclaim := claim_of_choose hchoose
    refine ⟨i, hi, hbit, ?_, ?_⟩
    · rw [exec_poolAlloc_of_claim hclaim]
      exact claims_of_setInUse s p i _
    · rw [exec_poolTryAlloc_of_claim hclaim]
      exact claims_of_setInUse s p i _
  · intro hnone
    have hclaim := (claim_none s p).mpr hnone
    exact ⟨exec_poolAlloc_of_exhausted hclaim, exec_poolTryAlloc_of_exhausted hclaim⟩

/-- Settles O2: every free index is chosen by some value of `pick`. -/
theorem everyFreeSlotCanBeAllocated : Obligations.EveryFreeSlotCanBeAllocated := by
  intro s p i hi hfree
  obtain ⟨k, hk⟩ := chooseFree_surjective _ _ i hi hfree
  have hclaim : claim { s with pick := k } p = _ := claim_of_choose hk
  exact ⟨k, _, _, exec_poolAlloc_of_claim hclaim, rfl, exec_poolTryAlloc_of_claim hclaim, rfl⟩

theorem recognised_iff {s : State} {p : Pool} {h : Handle} :
    recognised s p h = true ↔ h.pool = p ∧ h.idx < s.cfg.slotCount p := by
  simp [recognised]

theorem exec_poolFree_of_recognised {s : State} {p : Pool} {h : Handle} (known : recognised s p h = true) :
    exec (.poolFree p h) s = .next { s.setInUse p h.idx false with held := s.held.erase h, ret := .done } := by
  have hrelease : release s p h = s.setInUse p h.idx false := if_pos known
  change execPoolFree p h s = _
  simp only [execPoolFree, if_pos known, hrelease, finish]

theorem exec_poolFree_of_unrecognised {s : State} {p : Pool} {h : Handle} (unknown : recognised s p h = false) :
    Returns s (exec (.poolFree p h) s) .done :=
  if_neg (Bool.eq_false_iff.mp unknown)

/-- Settles O3: by whether the handle names a slot of the pool. -/
theorem poolFreeClearsOnlyARecognisedSlot : Obligations.PoolFreeClearsOnlyARecognisedSlot := by
  intro s p q i
  refine ⟨fun hi => ?prx, fun hi => ?ptx, fun hbad => exec_poolFree_of_unrecognised (Bool.eq_false_iff.mpr fun hknown => ?other)⟩
  case prx => exact exec_poolFree_of_recognised (p := .prx) (recognised_iff.mpr ⟨rfl, hi⟩)
  case ptx => exact exec_poolFree_of_recognised (p := .ptx) (recognised_iff.mpr ⟨rfl, hi⟩)
  case other =>
    obtain ⟨hpool, hidx⟩ := recognised_iff.mp hknown
    exact hbad.elim (absurd hpool) (absurd hidx ∘ Nat.not_lt.mpr)

/-- Settles O4: a free slot has no owner, and the ghost makes its caller one. -/
theorem allocatedHandleWasLiveNowhere : Obligations.AllocatedHandleWasLiveNowhere := by
  intro s t p i h halloc
  have hclaimed : i < s.cfg.slotCount p ∧ (s.slots p).inUse[i]? = some false ∧ (⟨p, i⟩ : Handle) ∈ t.held := by
    rcases halloc with ⟨hexec, hret⟩ | ⟨hexec, hret⟩
    · obtain ⟨-, rfl⟩ | ⟨j, hj, hfree, rfl⟩ := execPoolAlloc_cases hexec
      · cases hret
      · cases hret
        exact ⟨hj, hfree, List.mem_cons_self⟩
    · obtain ⟨-, rfl⟩ | ⟨j, hj, hfree, rfl⟩ := execPoolTryAlloc_cases hexec
      · cases hret
      · cases hret
        exact ⟨hj, hfree, List.mem_cons_self⟩
  obtain ⟨hi, hfree, hheld⟩ := hclaimed
  exact ⟨(h.tracks p).not_mem_of_free hfree, mem_owned_of_held hheld, hi⟩

/-! The byte assembler. -/

theorem storesBytes_writeN (m : Memory) (a : Nat) (bs : List Byte) : StoresBytes m (Memory.writeN m a bs) a bs :=
  fun b => Memory.read_writeN bs m a b

theorem exec_rxByte_of_room {s : State} (b : Byte) (h : s.rxCnt < s.cfg.rxCap) :
    exec (.rxByte b) s = .next { s with
      mem := Memory.writeN s.mem (rxBufBase s.cfg + s.rxCnt) [b], rxCnt := s.rxCnt + 1, rxIn := s.rxIn ++ [.rxByte b]
      ret := .done } :=
  if_pos h

theorem exec_rxByte_of_full {s : State} (b : Byte) (h : s.cfg.rxCap ≤ s.rxCnt) :
    exec (.rxByte b) s = .next { s with rxTag := .bufferOverrun, rxIn := s.rxIn ++ [.rxByte b], ret := .done } :=
  if_neg (Nat.not_lt.mpr h)

/-- Settles O5: an equation for each side of the scratch buffer's capacity. -/
theorem rxByteStoresOrMarksTheOverrun : Obligations.RxByteStoresOrMarksTheOverrun :=
  fun b _ => ⟨fun h => ⟨_, exec_rxByte_of_room b h, storesBytes_writeN _ _ [b]⟩, exec_rxByte_of_full b⟩

theorem scratchBytes_of_read {s : State} {bs : List Byte} (hfits : s.rxCnt ≤ s.cfg.rxCap)
    (hread : Memory.readN s.mem (rxBufBase s.cfg) s.rxCnt = some bs) : scratchBytes s = .ok bs := by
  rw [scratchBytes, if_pos hfits, hread]

theorem slotWrite_of_fits {s : State} {p : Pool} {i : Nat} {bs : List Byte} (hi : i < s.cfg.slotCount p)
    (hfits : bs.length ≤ s.cfg.slotBytes) :
    slotWrite s p i bs = .ok { s with mem := Memory.writeN s.mem (slotBase s.cfg p i) bs } :=
  if_pos ⟨hi, hfits⟩

/-- The state in which the accumulated run is queued in slot `i` (R156, the first branch). -/
def runQueued (tag : Tag) (i : Nat) (bs : List Byte) (s : State) : State :=
  { s with
    prx := ⟨s.prx.inUse.set i true, s.prx.len.set i s.rxCnt⟩, prxTag := s.prxTag.set i tag
    mem := Memory.writeN s.mem (slotBase s.cfg .prx i) bs, rxq := s.rxq ++ [i], rxCnt := 0, rxTag := .ok }

theorem frameEnd_of_choose {s : State} {i : Nat} {bs : List Byte} (tag : Tag)
    (hchoose : chooseFree s.prx.inUse s.cfg.nRx s.pick = some i) (hroom : s.rxq.length < s.cfg.rxqCap)
    (hfits : s.rxCnt ≤ s.cfg.rxCap) (hslot : s.cfg.rxCap ≤ s.cfg.slotBytes)
    (hread : Memory.readN s.mem (rxBufBase s.cfg) s.rxCnt = some bs) : frameEnd tag s = .ok (runQueued tag i bs s) := by
  have hclaim : claim s .prx = some (i, s.setInUse .prx i true) := claim_of_choose hchoose
  obtain ⟨hi, -⟩ := chooseFree_some hchoose
  have hlen : bs.length ≤ s.cfg.slotBytes := by
    have := ((Memory.readN_eq_some _ _ _ _).mp hread).1
    omega
  have hbytes : scratchBytes (s.setInUse .prx i true) = .ok bs := scratchBytes_of_read hfits hread
  have hwrite := slotWrite_of_fits (s := s.setInUse .prx i true) (p := .prx) hi hlen
  simp only [frameEnd, hclaim, if_pos ((hasRoom_iff _ _).mpr hroom), queueRun, hbytes, hwrite]
  rfl

theorem frameEnd_of_exhausted {s : State} (tag : Tag) (h : ∀ i, i < s.cfg.nRx → s.prx.inUse[i]? ≠ some false) :
    frameEnd tag s = .ok (clearScratch s) := by
  simp only [frameEnd, (claim_none s .prx).mpr h]

theorem frameEnd_of_full {s : State} (tag : Tag) (h : s.cfg.rxqCap ≤ s.rxq.length) :
    frameEnd tag s = .ok (clearScratch s) := by
  have hfull : ¬ hasRoom s.rxq s.cfg.rxqCap = true := fun hroom => absurd ((hasRoom_iff _ _).mp hroom) (Nat.not_lt.mpr h)
  cases hclaim : claim s .prx with
  | none => exact frameEnd_of_exhausted tag ((claim_none s .prx).mp hclaim)
  | some r =>
    obtain ⟨i, t⟩ := r
    obtain ⟨hi, hfree, rfl⟩ := claim_some hclaim
    simp only [frameEnd, hclaim, if_neg hfull, release_claimed hi hfree]

theorem exec_frameEnd_of_ok {s t : State} {tag : Tag} (h : frameEnd tag s = .ok t) :
    exec (.frameEnd tag) s = .next { t with ret := .done } := by
  change orFault (frameEnd tag s) _ = _
  rw [h]
  rfl

/-- Settles O6: the frame end's branches, by the claim and the room in `rxq`. -/
theorem frameEndQueuesOrDiscardsTheRun : Obligations.FrameEndQueuesOrDiscardsTheRun := by
  intro tag s bs
  constructor
  · intro hfits hslot hread hroom hfree
    obtain ⟨i, hi, hbit, hchoose⟩ := exists_choose (p := .prx) hfree
    exact ⟨i, _, hi, hbit, exec_frameEnd_of_ok (frameEnd_of_choose tag hchoose hroom hfits hslot hread), storesBytes_writeN _ _ bs⟩
  · rintro (hnone | hfull)
    · exact exec_frameEnd_of_ok (frameEnd_of_exhausted tag hnone)
    · exact exec_frameEnd_of_ok (frameEnd_of_full tag hfull)

/-- A frame ends without a fault while the scratch bytes are written, and touches nothing but the receiver. -/
theorem exists_frameEnd {s : State} (tag : Tag) (hfits : s.rxCnt ≤ s.cfg.rxCap) (hslot : s.cfg.rxCap ≤ s.cfg.slotBytes)
    (hwritten : written s.mem (rxBufBase s.cfg) s.rxCnt) :
    ∃ t, (∀ rt, frameEnd tag { s with rxTag := rt } = .ok t)
      ∧ t.cmdq = s.cmdq ∧ t.txq = s.txq ∧ t.ptx = s.ptx := by
  obtain ⟨bs, hread⟩ := Option.isSome_iff_exists.mp hwritten
  by_cases hfree : ∃ i, i < s.cfg.nRx ∧ s.prx.inUse[i]? = some false
  · by_cases hroom : s.rxq.length < s.cfg.rxqCap
    · obtain ⟨i, hi, hbit, hchoose⟩ := exists_choose (p := .prx) hfree
      exact ⟨runQueued tag i bs s, fun rt => frameEnd_of_choose tag hchoose hroom hfits hslot hread, rfl, rfl, rfl⟩
    · exact ⟨clearScratch s, fun rt => frameEnd_of_full tag (Nat.le_of_not_lt hroom), rfl, rfl, rfl⟩
  · exact ⟨clearScratch s, fun rt => frameEnd_of_exhausted tag fun i hi hbit => hfree ⟨i, hi, hbit⟩, rfl, rfl, rfl⟩

theorem exec_rxIdle_of_idle {s : State} (h : s.rxCnt = 0 ∧ s.rxTag = .ok) :
    exec .rxIdle s = .next { s with rxIn := s.rxIn ++ [.rxIdle], ret := .done } :=
  if_neg (by simp [assemblerBusy, h.1, h.2])

theorem exec_rxIdle_of_busy {s t : State} (h : 0 < s.rxCnt ∨ s.rxTag ≠ .ok) (hend : frameEnd s.rxTag s = .ok t) :
    exec .rxIdle s = .next { t with rxIn := s.rxIn ++ [.rxIdle], ret := .done } := by
  have hbusy : assemblerBusy s = true := by simpa [assemblerBusy] using h
  change execRxIdle s = _
  simp only [execRxIdle, if_pos hbusy, hend, orFault, finish]

theorem exec_rxParityErr_of_ok {s t : State} (hend : frameEnd .parityError { s with rxTag := .parityError } = .ok t) :
    exec .rxParityErr s = .next { t with rxIn := s.rxIn ++ [.rxParityErr], ret := .done } := by
  change execRxParityErr s = _
  simp only [execRxParityErr, hend, orFault, finish]

/-- Settles O7: each ends the frame with its tag, which completes while the scratch bytes are written. -/
theorem idleAndParityErrorEndTheFrame : Obligations.IdleAndParityErrorEndTheFrame := by
  intro s hfits hslot hwritten
  refine ⟨exec_rxIdle_of_idle, fun hbusy => ?_, ?_⟩
  · obtain ⟨t, hend, -⟩ := exists_frameEnd s.rxTag hfits hslot hwritten
    exact ⟨_, exec_frameEnd_of_ok (hend s.rxTag), exec_rxIdle_of_busy (t := t) hbusy (hend s.rxTag)⟩
  · obtain ⟨t, hend, -⟩ := exists_frameEnd .parityError hfits hslot hwritten
    exact ⟨_, exec_frameEnd_of_ok (hend s.rxTag), exec_rxParityErr_of_ok (t := t) (hend .parityError)⟩

theorem Inv.exists_frameEnd {s : State} (h : Inv s) (tag : Tag) :
    ∃ t, (∀ rt, frameEnd tag { s with rxTag := rt } = .ok t) ∧ t.cmdq = s.cmdq ∧ t.txq = s.txq ∧ t.ptx = s.ptx := by
  obtain ⟨-, -, -, -, -, -, -, hslot⟩ := sizes_of_wf h.cfgOk
  exact Machine.exists_frameEnd tag h.scratchFits hslot h.scratchWritten

/-- Settles O8: the scratch bytes are written in a state of the invariant. -/
theorem receiveInterruptsNeverHold : Obligations.ReceiveInterruptsNeverHold := by
  rintro s i h (⟨b, rfl⟩ | rfl | rfl | ⟨tag, rfl⟩)
  · by_cases hroom : s.rxCnt < s.cfg.rxCap
    · exact ⟨_, exec_rxByte_of_room b hroom, rfl, rfl, rfl, rfl⟩
    · exact ⟨_, exec_rxByte_of_full b (Nat.le_of_not_lt hroom), rfl, rfl, rfl, rfl⟩
  · obtain ⟨t, hend, hsame⟩ := h.exists_frameEnd .parityError
    exact ⟨_, exec_rxParityErr_of_ok (hend _), rfl, hsame⟩
  · by_cases hbusy : 0 < s.rxCnt ∨ s.rxTag ≠ .ok
    · obtain ⟨t, hend, hsame⟩ := h.exists_frameEnd s.rxTag
      exact ⟨_, exec_rxIdle_of_busy hbusy (hend s.rxTag), rfl, hsame⟩
    · obtain ⟨hcnt, htag⟩ := not_or.mp hbusy
      exact ⟨_, exec_rxIdle_of_idle ⟨Nat.eq_zero_of_not_pos hcnt, not_not.mp htag⟩, rfl, rfl, rfl, rfl⟩
  · obtain ⟨t, hend, hsame⟩ := h.exists_frameEnd tag
    exact ⟨_, exec_frameEnd_of_ok (hend s.rxTag), rfl, hsame⟩

/-! The RX task (R165). -/

theorem deliver_of_room {s : State} {r : Option TypedCommand} {h : Nat} {rest : List Nat} (head : s.rxq = h :: rest)
    (inPool : h < s.cfg.nRx) (room : r = none ∨ s.cmdq.length < s.cfg.cmdqCap) : Delivers s (deliver r s) h rest r.toList := by
  have hroom : r = none ∨ hasRoom s.cmdq s.cfg.cmdqCap = true := room.imp_right (hasRoom_iff _ _).mpr
  simp only [Delivers, deliver, head, if_pos hroom, release_prx, freed, if_pos inPool, finish]

theorem deliver_of_full {s : State} {r : Option TypedCommand} (hr : r ≠ none) (full : s.cfg.cmdqCap ≤ s.cmdq.length) :
    Holds s (deliver r s) := by
  have hfull : ¬ (r = none ∨ hasRoom s.cmdq s.cfg.cmdqCap = true) := by
    rw [hasRoom_iff]
    exact not_or.mpr ⟨hr, Nat.not_lt.mpr full⟩
  unfold deliver
  split
  · rfl
  · rw [if_neg hfull]
    rfl

theorem exec_rxtStep_of_nil {s : State} (h : s.rxq = []) : Holds s (exec .rxtStep s) := by
  change execRxtStep s = _
  simp only [execRxtStep, h, hold, finish]

theorem exec_rxtStep_of_result {s : State} {h : Nat} {rest : List Nat} {r : Option TypedCommand} (head : s.rxq = h :: rest)
    (result : runResult s h = .ok r) : exec .rxtStep s = deliver r s := by
  change execRxtStep s = _
  simp only [execRxtStep, head, result, orFault]

theorem exec_rxtStep_of_room {s : State} {h : Nat} {rest : List Nat} {r : Option TypedCommand} (head : s.rxq = h :: rest)
    (result : runResult s h = .ok r) (inPool : h < s.cfg.nRx) (room : r = none ∨ s.cmdq.length < s.cfg.cmdqCap) :
    Delivers s (exec .rxtStep s) h rest r.toList :=
  (exec_rxtStep_of_result head result).trans (deliver_of_room head inPool room)

theorem runBytes_of_read {s : State} {h n : Nat} {f : List Byte} (inPool : h < s.cfg.nRx) (len : s.prx.len[h]? = some n)
    (fits : n ≤ s.cfg.slotBytes) (read : Memory.readN s.mem (slotBase s.cfg .prx h) n = some f) : runBytes s h = .ok f := by
  have hin : h < s.cfg.slotCount .prx ∧ 0 + n ≤ s.cfg.slotBytes := ⟨inPool, by omega⟩
  simp only [runBytes, len, slotRead, if_pos hin, Nat.add_zero, read]

theorem cmdDecode_of_invalid {c : Cfg} {f : List Byte} (h : frameValidate c f = false) : cmdDecode c f = none := by
  obtain ⟨r, hr⟩ := decode_of_invalid h
  exact cmdDecode_of_error hr

theorem runResult_of_ok {s : State} {h : Nat} {f : List Byte} (tag : s.prxTag[h]? = some .ok) (bytes : runBytes s h = .ok f) :
    runResult s h = .ok (cmdDecode s.cfg f) := by
  simp only [runResult, tag, bytes]
  cases hvalid : frameValidate s.cfg f with
  | true => rfl
  | false =>
    rw [cmdDecode_of_invalid hvalid]
    rfl

theorem runResult_of_bad_tag {s : State} {h : Nat} {tag : Tag} (htag : s.prxTag[h]? = some tag) (hne : tag ≠ .ok) :
    runResult s h = .ok none := by
  cases tag with
  | ok => exact absurd rfl hne
  | parityError | bufferOverrun => simp only [runResult, htag]

/-- Settles O14: the result of the head run, and what the delivery of it does. -/
theorem rxtStepDropsDeliversOrHolds : Obligations.RxtStepDropsDeliversOrHolds := by
  intro s h n rest tag f
  refine ⟨exec_rxtStep_of_nil, fun hwf head inPool htag len fits read => ?_⟩
  have hbytes := runBytes_of_read inPool len fits read
  have hresult (hok : tag = .ok) : runResult s h = .ok (cmdDecodeSpec s.cfg f) := by
    rw [← cmdDecode_eq_cmdDecodeSpec hwf]
    exact runResult_of_ok (hok ▸ htag) hbytes
  refine ⟨fun hbad => ?drop, fun hok hroom => ?deliver, fun hok hsome hfull => ?hold⟩
  case drop =>
    have hnone : runResult s h = .ok none := by
      by_cases hok : tag = .ok
      · rw [runResult_of_ok (hok ▸ htag) hbytes, cmdDecode_of_invalid (hbad.resolve_left (not_not_intro hok))]
      · exact runResult_of_bad_tag htag hok
    exact exec_rxtStep_of_room head hnone inPool (.inl rfl)
  case deliver => exact exec_rxtStep_of_room head (hresult hok) inPool hroom
  case hold =>
    rw [exec_rxtStep_of_result head (hresult hok)]
    exact deliver_of_full hsome hfull

/-! What the messages deliver (R223 to R235). -/

theorem imageSpec_poll (src dst : Byte) :
    imageSpec src dst [0x01] = [src, 0x03, dst, 0x01, src ^^^ 0x03 ^^^ dst ^^^ 0x01] := by
  simp [imageSpec]

theorem imageSpec_cdc (src dst sub data : Byte) : imageSpec src dst [0x38, sub, data]
    = [src, 0x05, dst, 0x38, sub, data, src ^^^ 0x05 ^^^ dst ^^^ 0x38 ^^^ sub ^^^ data] := by
  simp [imageSpec]

theorem cmdDecode_of_decode {c : Cfg} {f : List Byte} {i : Instr} (h : decode c f = .ok i) : cmdDecode c f = messageResult c i := by
  rw [cmdDecode, h]

/-- What the operation returns on a run that decodes to a message. -/
theorem exec_cmdDecode_of_decode {s : State} {f : List Byte} {i : Instr} {r : Option TypedCommand}
    (h : decode s.cfg f = .ok i) (hr : messageResult s.cfg i = r) : Returns s (exec (.cmdDecode f) s) (.decoded r) := by
  rw [← hr, ← cmdDecode_of_decode h]
  exact exec_cmdDecode f s

/-- An inbound message is executed as the delivery of its result (R165). -/
theorem exec_of_inbound {i : Instr} (h : isInbound i = true) (s : State) : exec i s = deliver (messageResult s.cfg i) s := by
  cases i with
  | traffic | poll | cdcStatus | cdcStop | cdcPause | cdcPlay | cdcFastplay | cdcSeek | cdcAltseek | cdcChangedisc
  | cdcScandisc | cdcRandomize => rfl
  | _ => cases h

theorem delivers_of_inbound {s : State} {i : Instr} {r : Option TypedCommand} {h : Nat} {rest : List Nat}
    (inbound : isInbound i = true) (result : messageResult s.cfg i = r) (head : s.rxq = h :: rest) (inPool : h < s.cfg.nRx)
    (room : s.cmdq.length < s.cfg.cmdqCap) : Delivers s (exec i s) h rest r.toList := by
  rw [exec_of_inbound inbound, result]
  exact deliver_of_room head inPool (.inr room)

/-- A changer command's image decodes to the result of its row. -/
theorem exec_cmdDecode_cdc {s : State} (h : s.cfg.wf = true) {src dst sub data : Byte} {i : Instr} {r : Option TypedCommand}
    (hsrc : src ≠ s.cfg.selfAddr) (hdst : s.cfg.ours dst = true) (hrow : decodeCdc s.cfg src dst sub data = .ok i)
    (hr : messageResult s.cfg i = r) :
    Returns s (exec (.cmdDecode [src, 0x05, dst, 0x38, sub, data, src ^^^ 0x05 ^^^ dst ^^^ 0x38 ^^^ sub ^^^ data]) s) (.decoded r) := by
  rw [← imageSpec_cdc]
  exact exec_cmdDecode_of_decode ((decode_cdcImage h hsrc hdst sub data).trans hrow) hr

/-- Settles O18: a valid run to another device, a poll's image, and the two deliveries. -/
theorem trafficAndPollDecodeAndDeliver : Obligations.TrafficAndPollDecodeAndDeliver := by
  intro s src dst p f h rest hwf head inPool room
  refine ⟨fun hvalid hsrc hdst => ?_, delivers_of_inbound rfl rfl head inPool room, fun hsrc hdst => ?_,
    delivers_of_inbound rfl rfl head inPool room⟩
  · exact exec_cmdDecode_of_decode ((decode_of_valid hvalid).trans (decodeValid_of_traffic hsrc hdst)) rfl
  · rw [← imageSpec_poll]
    exact exec_cmdDecode_of_decode (decode_pollImage hwf hsrc hdst) rfl

/-- A row of the sub-command table: its image decodes to its result, and executing its message delivers that. -/
theorem cdc_decodes_and_delivers {s : State} {src dst data : Byte} {h : Nat} {rest : List Nat} (hwf : s.cfg.wf = true)
    (hsrc : src ≠ s.cfg.selfAddr) (hdst : s.cfg.ours dst = true) (head : s.rxq = h :: rest) (inPool : h < s.cfg.nRx)
    (room : s.cmdq.length < s.cfg.cmdqCap) {sub : Byte} {i : Instr} {r : Option TypedCommand}
    (hrow : decodeCdc s.cfg src dst sub data = .ok i) (hr : messageResult s.cfg i = r) :
    Returns s (exec (.cmdDecode [src, 0x05, dst, 0x38, sub, data, src ^^^ 0x05 ^^^ dst ^^^ 0x38 ^^^ sub ^^^ data]) s) (.decoded r)
    ∧ Delivers s (exec i s) h rest r.toList :=
  ⟨exec_cmdDecode_cdc hwf hsrc hdst hrow hr, delivers_of_inbound (decodeCdc_ok hrow).2.1 hr head inPool room⟩

/-- Settles O19: the rows of `Status`, `Stop`, `Pause`, `Play`. -/
theorem plainCommandsDecodeAndDeliver : Obligations.PlainCommandsDecodeAndDeliver := by
  intro s src dst data h rest hwf hsrc hdst head inPool room
  obtain ⟨hStatus, hStop, hPause, hPlay, -⟩ := decodeCdc_of_wf hwf
  obtain ⟨rStatus, rStop, rPause, rPlay, -⟩ := messageResult_cdc s.cfg src dst data
  exact ⟨cdc_decodes_and_delivers hwf hsrc hdst head inPool room (hStatus src dst data) rStatus,
    cdc_decodes_and_delivers hwf hsrc hdst head inPool room (hStop src dst data) rStop,
    cdc_decodes_and_delivers hwf hsrc hdst head inPool room (hPause src dst data) rPause,
    cdc_decodes_and_delivers hwf hsrc hdst head inPool room (hPlay src dst data) rPlay⟩

/-- Settles O20: the rows of `FastPlay` and `Seek`. -/
theorem directionCommandsDecodeAndDeliver : Obligations.DirectionCommandsDecodeAndDeliver := by
  intro s src dst data h rest hwf hsrc hdst head inPool room
  obtain ⟨-, -, -, -, hFastplay, hSeek, -⟩ := decodeCdc_of_wf hwf
  obtain ⟨-, -, -, -, rFastplay, rSeek, -⟩ := messageResult_cdc s.cfg src dst data
  exact ⟨cdc_decodes_and_delivers hwf hsrc hdst head inPool room (hFastplay src dst data) rFastplay,
    cdc_decodes_and_delivers hwf hsrc hdst head inPool room (hSeek src dst data) rSeek⟩

/-- Settles O22: the rows of `AltSeek`, `ScanDisc` and `Randomize`. -/
theorem altSeekAndSwitchCommandsDecodeAndDeliver : Obligations.AltSeekAndSwitchCommandsDecodeAndDeliver := by
  intro s src dst data h rest hwf hsrc hdst head inPool room
  obtain ⟨-, -, -, -, -, -, hAltseek, -, hScandisc, hRandomize⟩ := decodeCdc_of_wf hwf
  obtain ⟨-, -, -, -, -, -, rAltseek, -, rScandisc, rRandomize⟩ := messageResult_cdc s.cfg src dst data
  exact ⟨cdc_decodes_and_delivers hwf hsrc hdst head inPool room (hAltseek src dst data) rAltseek,
    cdc_decodes_and_delivers hwf hsrc hdst head inPool room (hScandisc src dst data) rScandisc,
    cdc_decodes_and_delivers hwf hsrc hdst head inPool room (hRandomize src dst data) rRandomize⟩

theorem find_disc {data : Byte} {d : Disc} (h : data.toNat = d.toNat) :
    (Disc.all.find? fun e => e.toNat == data.toNat) = some d := by
  rw [h]
  cases d <;> rfl

theorem find_disc_none {data : Byte} (h : data.toNat = 0 ∨ 7 ≤ data.toNat) :
    (Disc.all.find? fun e => e.toNat == data.toNat) = none := by
  refine List.find?_eq_none.mpr fun d _ heq => ?_
  have : d.toNat = data.toNat := by simpa using heq
  cases d <;> simp only [Disc.toNat] at this <;> omega

/-- Settles O21: the disc a data byte names, if it names one. -/
theorem changeDiscDecodesOneToSix : Obligations.ChangeDiscDecodesOneToSix := by
  intro s src dst data h rest hwf hsrc hdst head inPool room
  obtain ⟨-, -, -, -, -, -, -, hChangedisc, -⟩ := decodeCdc_of_wf hwf
  obtain ⟨-, -, -, -, -, -, -, rChangedisc, -⟩ := messageResult_cdc s.cfg src dst data
  constructor
  · intro d hd
    rw [find_disc hd] at rChangedisc
    exact cdc_decodes_and_delivers hwf hsrc hdst head inPool room (hChangedisc src dst data) rChangedisc
  · intro hbad
    rw [find_disc_none hbad] at rChangedisc
    exact cdc_decodes_and_delivers hwf hsrc hdst head inPool room (hChangedisc src dst data) rChangedisc

end Sys2Proof.Machine

/-! ### PROOFS. The transmit path and the message encoder (spec/42_tx_transmitter.md, spec/44_status_encoder.md): what each operation
does, case by case -/

namespace Sys2Proof.Machine

/-! `TX_SEND` (R183). -/

theorem canQueue_iff (s : State) :
    CanQueue s ↔ hasRoom s.txq s.cfg.txqCap = true ∧ ∃ i, i < s.cfg.slotCount .ptx ∧ (s.slots .ptx).inUse[i]? = some false := by
  rw [hasRoom_iff]
  rfl

theorem txSend_of_reject {s : State} {src dst : Byte} {p : List Byte} (h : framePopulate s.cfg src dst p = none) :
    Returns s (txSend src dst p s) .rejected := by
  simp only [Returns, txSend, h, finish]

theorem txSend_of_canQueue {s : State} {src dst : Byte} {p img : List Byte} (h : framePopulate s.cfg src dst p = some img)
    (hfits : img.length ≤ s.cfg.slotBytes) (hcan : CanQueue s) : QueuesFrame s (txSend src dst p s) img := by
  obtain ⟨hroom, hfree⟩ := (canQueue_iff s).mp hcan
  obtain ⟨i, hi, hbit, hchoose⟩ := exists_choose hfree
  have hwrite := slotWrite_of_fits (s := s.setInUse .ptx i true) (p := .ptx) hi hfits
  refine ⟨i, _, hi, hbit, ?_, storesBytes_writeN s.mem (slotBase s.cfg .ptx i) img⟩
  simp only [txSend, h, if_pos hroom, claim_of_choose hchoose, hwrite, orFault, finish]
  rfl

theorem txSend_of_not_canQueue {s : State} {src dst : Byte} {p img : List Byte} (h : framePopulate s.cfg src dst p = some img)
    (hcannot : ¬ CanQueue s) : Holds s (txSend src dst p s) := by
  by_cases hroom : hasRoom s.txq s.cfg.txqCap = true
  · have hnone : claim s .ptx = none := (claim_none s .ptx).mpr fun i hi hbit =>
      hcannot ((canQueue_iff s).mpr ⟨hroom, i, hi, hbit⟩)
    simp only [Holds, txSend, h, if_pos hroom, hnone, hold, finish]
  · simp only [Holds, txSend, h, if_neg hroom, hold, finish]

theorem length_imageSpec_le_slotBytes {c : Cfg} (h : c.wf = true) (src dst : Byte) {p : List Byte} (hp : p.length ≤ 20) :
    (imageSpec src dst p).length ≤ c.slotBytes := by
  obtain ⟨-, -, -, -, -, hslot, -⟩ := sizes_of_wf h
  rw [length_imageSpec]
  omega

/-- Settles O30: the length decides the reject, and then the pool and the queue. -/
theorem txSendRejectsQueuesOrHolds : Obligations.TxSendRejectsQueuesOrHolds := by
  intro s src dst p h
  refine ⟨fun hbad => ?_, fun hgood hcan => ?_, fun hgood hcannot => ?_⟩
  · exact txSend_of_reject (framePopulate_of_bad_length h src dst hbad)
  · exact txSend_of_canQueue (framePopulate_of_good_length h src dst hgood) (length_imageSpec_le_slotBytes h src dst hgood.2) hcan
  · exact txSend_of_not_canQueue (framePopulate_of_good_length h src dst hgood) hcannot

/-! The transmit sequencer, the DMA engine and the arbiter (R185 to R193). -/

theorem exec_txtStart_of_ready {s : State} {h : Nat} {rest : List Nat} (idle : s.txs = .idle) (head : s.txq = h :: rest)
    (cts : s.cts = true) (noFall : s.ctsFallPend = false) :
    exec .txtStart s = .next { s with
      txCur := h, txq := rest, dmaIdx := 0, dmaActive := true, txWake := .none, txs := .sending
      lineOut := s.lineOut ++ [.start h], ret := .done } := by
  change execTxtStart s = _
  simp only [execTxtStart, head, if_pos ((mayStart_iff s).mpr ⟨idle, cts, noFall⟩), finish]

theorem exec_txtStart_of_not_ready {s : State} (h : s.txs ≠ .idle ∨ s.txq = [] ∨ s.cts = false ∨ s.ctsFallPend = true) :
    Holds s (exec .txtStart s) := by
  change execTxtStart s = _
  unfold execTxtStart
  split
  · rfl
  · rename_i i rest hcons
    have hmay : ¬ mayStart s = true := by
      rw [mayStart_iff]
      rintro ⟨hidle, hcts, hfall⟩
      simp [hidle, hcons, hcts, hfall] at h
    rw [if_neg hmay]
    rfl

/-- Settles O31: the guard, and each conjunct of it missing. -/
theorem txtStartBeginsTheHeadFrame : Obligations.TxtStartBeginsTheHeadFrame :=
  fun _ _ _ => ⟨fun ⟨idle, head, cts, noFall⟩ => exec_txtStart_of_ready idle head cts noFall, exec_txtStart_of_not_ready⟩

theorem exec_dmaByte_of_left {s : State} {n : Nat} {b : Byte} (active : s.dmaActive = true) (len : s.ptx.len[s.txCur]? = some n)
    (left : s.dmaIdx < n) (inPool : s.txCur < s.cfg.nTx) (fits : n ≤ s.cfg.slotBytes)
    (read : Memory.read s.mem (slotBase s.cfg .ptx s.txCur + s.dmaIdx) = some b) :
    exec .dmaByte s = .next { s with lineOut := s.lineOut ++ [.byte b], dmaIdx := s.dmaIdx + 1, ret := .done } := by
  have hlen : transferLen s = some n := len
  have hin : s.txCur < s.cfg.slotCount .ptx ∧ s.dmaIdx + 1 ≤ s.cfg.slotBytes := ⟨inPool, by omega⟩
  have hread : slotRead s .ptx s.txCur s.dmaIdx 1 = .ok [b] := by
    simp only [slotRead, if_pos hin, Memory.readN, read]
  change execDmaByte s = _
  simp only [execDmaByte, if_pos active, hlen, if_pos left, hread, orFault, finish]
  rfl

theorem exec_dmaByte_of_none_left {s : State} {n : Nat}
    (h : s.dmaActive = false ∨ (s.ptx.len[s.txCur]? = some n ∧ n ≤ s.dmaIdx)) : Holds s (exec .dmaByte s) := by
  change execDmaByte s = _
  by_cases hactive : s.dmaActive = true
  · obtain ⟨hlen, hall⟩ := h.resolve_left (by simp [hactive])
    have hlen : transferLen s = some n := hlen
    simp only [execDmaByte, if_pos hactive, hlen, if_neg (Nat.not_lt.mpr hall), hold, finish]
  · exact if_neg hactive

/-- Settles O32: a byte left, or none. -/
theorem dmaByteMovesTheNextByte : Obligations.DmaByteMovesTheNextByte :=
  fun _ _ _ => ⟨exec_dmaByte_of_left, exec_dmaByte_of_none_left⟩

theorem exec_dmaComplete_of_all {s : State} (active : s.dmaActive = true) (len : s.ptx.len[s.txCur]? = some s.dmaIdx) :
    exec .dmaComplete s = .next { s with
      dmaActive := false, txWake := if s.txWake = .none then .done else s.txWake, lineOut := s.lineOut ++ [.complete]
      ret := .done } := by
  have hlen : transferLen s = some s.dmaIdx := len
  change execDmaComplete s = _
  simp only [execDmaComplete, if_pos active, hlen, if_true, postDone, finish]

theorem exec_dmaComplete_of_left {s : State} {n : Nat} (len : s.ptx.len[s.txCur]? = some n)
    (h : s.dmaActive = false ∨ s.dmaIdx ≠ n) : Holds s (exec .dmaComplete s) := by
  have hlen : transferLen s = some n := len
  change execDmaComplete s = _
  by_cases hactive : s.dmaActive = true
  · have hleft := h.resolve_left (by simp [hactive])
    simp only [execDmaComplete, if_pos hactive, hlen, if_neg hleft, hold, finish]
  · exact if_neg hactive

/-- Settles O33: every byte emitted, or not. -/
theorem dmaCompletePostsDone : Obligations.DmaCompletePostsDone :=
  fun _ _ len => ⟨fun ⟨active, hall⟩ => exec_dmaComplete_of_all active (hall ▸ len), exec_dmaComplete_of_left len⟩

theorem exec_arbStep_of_active {s : State} (pend : s.ctsFallPend = true) (active : s.dmaActive = true) :
    exec .arbStep s = .next { s with
      ctsFallPend := false, dmaActive := false, txWake := .collision, lineOut := s.lineOut ++ [.abort s.dmaIdx]
      ret := .done } := by
  change execArbStep s = _
  simp only [execArbStep, if_pos pend, if_pos active, finish]

theorem exec_arbStep_of_inactive {s : State} (pend : s.ctsFallPend = true) (inactive : s.dmaActive = false) :
    exec .arbStep s = .next { s with ctsFallPend := false, ret := .done } := by
  change execArbStep s = _
  simp only [execArbStep, if_pos pend, if_neg (Bool.eq_false_iff.mp inactive), finish]

theorem exec_arbStep_of_none {s : State} (none : s.ctsFallPend = false) : Holds s (exec .arbStep s) :=
  if_neg (Bool.eq_false_iff.mp none)

/-- Settles O35: the pending fall and the transfer decide. -/
theorem arbStepAbortsOnlyAnActiveTransfer : Obligations.ArbStepAbortsOnlyAnActiveTransfer :=
  fun _ => ⟨fun ⟨pend, active⟩ => exec_arbStep_of_active pend active,
    fun ⟨pend, inactive⟩ => exec_arbStep_of_inactive pend inactive, exec_arbStep_of_none⟩

theorem exec_txtWakeColl_of_room {s : State} (sending : s.txs = .sending) (collision : s.txWake = .collision)
    (room : s.txq.length < s.cfg.txqCap) :
    exec .txtWakeColl s = .next { s with txq := s.txCur :: s.txq, txWake := .none, txs := .idle, ret := .done } := by
  have hwoken : s.txs = .sending ∧ s.txWake = .collision := ⟨sending, collision⟩
  change execTxtWakeColl s = _
  simp only [execTxtWakeColl, if_pos hwoken, if_pos ((hasRoom_iff _ _).mpr room), finish]

theorem exec_txtWakeColl_of_full {s : State} (sending : s.txs = .sending) (collision : s.txWake = .collision)
    (full : s.cfg.txqCap ≤ s.txq.length) : Holds s (exec .txtWakeColl s) := by
  have hwoken : s.txs = .sending ∧ s.txWake = .collision := ⟨sending, collision⟩
  have hfull : ¬ hasRoom s.txq s.cfg.txqCap = true := fun hroom => absurd ((hasRoom_iff _ _).mp hroom) (Nat.not_lt.mpr full)
  change execTxtWakeColl s = _
  simp only [execTxtWakeColl, if_pos hwoken, if_neg hfull, hold, finish]

theorem exec_txtWakeColl_of_not_woken {s : State} (h : s.txs ≠ .sending ∨ s.txWake ≠ .collision) :
    Holds s (exec .txtWakeColl s) :=
  if_neg (not_and_or.mpr h)

/-- Settles O36: woken by a collision with room, without it, or not woken. -/
theorem txtWakeCollRequeuesAtTheFront : Obligations.TxtWakeCollRequeuesAtTheFront :=
  fun _ => ⟨fun ⟨sending, collision, room⟩ => exec_txtWakeColl_of_room sending collision room, exec_txtWakeColl_of_not_woken,
    fun ⟨sending, collision, full⟩ => exec_txtWakeColl_of_full sending collision full⟩

theorem exec_txtWakeDone_of_done {s : State} (sending : s.txs = .sending) (done : s.txWake = .done) (inPool : s.txCur < s.cfg.nTx) :
    exec .txtWakeDone s = .next { s with
      ptx := { s.ptx with inUse := s.ptx.inUse.set s.txCur false }, txWake := .none, txs := .gap, ret := .done } := by
  have hwoken : s.txs = .sending ∧ s.txWake = .done := ⟨sending, done⟩
  change execTxtWakeDone s = _
  simp only [execTxtWakeDone, if_pos hwoken, release_ptx, freed, if_pos inPool, finish]

theorem exec_txtWakeDone_of_not_woken {s : State} (h : s.txs ≠ .sending ∨ s.txWake ≠ .done) : Holds s (exec .txtWakeDone s) :=
  if_neg (not_and_or.mpr h)

/-- A bit set before a move and clear after it was cleared by `POOL_FREE` or by the end of a transmission. -/
theorem Move.eq_of_ptx_cleared {a : Action} {s u : State} (hmove : Move a s u) {h : Nat} (hset : s.ptx.inUse[h]? = some true)
    (hclear : u.ptx.inUse[h]? = some false) : a = .op .txtWakeDone ∨ ∃ k, a = .op (.poolFree .ptx k) := by
  have hkept : ∀ i : Nat, (s.ptx.inUse.set i true)[h]? ≠ some false := fun i => by
    by_cases hi : i = h <;> simp [List.getElem?_set, hi, hset]
  cases hmove with
  | sent => exact .inl rfl
  | poolFree p k =>
    cases p with
    | ptx => exact .inr ⟨k, rfl⟩
    | prx => exact absurd (hset.symm.trans hclear) nofun
  | alloc p i =>
    cases p with
    | ptx => exact absurd hclear (hkept i)
    | prx => exact absurd (hset.symm.trans hclear) nofun
  | txQueued src dst p img i => exact absurd hclear (hkept i)
  | _ => exact absurd (hset.symm.trans hclear) nofun

/-- Settles O37: the operation's cases, and that no other move clears a PTX bit. -/
theorem txtWakeDoneFreesTheSlot : Obligations.TxtWakeDoneFreesTheSlot := by
  intro s
  refine ⟨fun ⟨sending, done⟩ inPool => exec_txtWakeDone_of_done sending done inPool, exec_txtWakeDone_of_not_woken, ?_⟩
  intro i t h hexec hset hclear
  obtain ⟨u, r, hmove, rfl⟩ := exec_moves hexec
  obtain hdone | ⟨k, hfree⟩ := hmove.eq_of_ptx_cleared hset hclear
  · exact .inl (Action.op.inj hdone)
  · exact .inr ⟨k, Action.op.inj hfree⟩

theorem exec_txtGapEnd_of_gap {s : State} (h : s.txs = .gap) :
    exec .txtGapEnd s = .next { s with txs := .idle, ret := .done } :=
  if_pos h

theorem exec_txtGapEnd_of_not_gap {s : State} (h : s.txs ≠ .gap) : Holds s (exec .txtGapEnd s) :=
  if_neg h

/-! The message encoder (R250 to R252). -/

theorem trackFold_eq_foldSpec (c : Cfg) (t : Byte) : trackFold c t = foldSpec c t := by
  unfold trackFold foldSpec
  cases c.trackFold with
  | modulo => rfl
  | clamp =>
    simp only [reduceCtorEq, if_false]
    split_ifs <;> omega

theorem foldSpec_range (c : Cfg) (t : Byte) : 1 ≤ foldSpec c t ∧ foldSpec c t ≤ 99 := by
  unfold foldSpec
  split_ifs <;> omega

/-- Packed BCD holds the two digits in the two halves of the byte. -/
theorem bcd8_eq (m : Fin 100) : bcd8 m.val = BitVec.ofNat 8 (m.val / 10 * 16 + m.val % 10) := by
  revert m
  decide

theorem toNat_bcd8 (m : Fin 100) : (bcd8 m.val).toNat = m.val / 10 * 16 + m.val % 10 := by
  rw [bcd8_eq, BitVec.toNat_ofNat]
  omega

/-- Settles O39: the fold's range, and the digits of the packed byte. -/
theorem trackConversionFoldsAndPacks : Obligations.TrackConversionFoldsAndPacks := by
  intro s t m
  refine ⟨⟨?_, foldSpec_range s.cfg t⟩, bcd8 m.val, rfl, ?_, ?_, fun hpos hzero => ?_⟩
  · rw [← trackFold_eq_foldSpec]
    rfl
  · rw [toNat_bcd8]
    omega
  · rw [toNat_bcd8]
    omega
  · have := toNat_bcd8 m
    rw [hzero, show (0 : Byte).toNat = 0 from rfl] at this
    omega

theorem bcd8_trackFold (c : Cfg) (t : Byte) :
    bcd8 (trackFold c t) = BitVec.ofNat 8 (foldSpec c t / 10 * 16 + foldSpec c t % 10) := by
  rw [trackFold_eq_foldSpec]
  exact bcd8_eq ⟨foldSpec c t, Nat.lt_succ_of_le (foldSpec_range c t).2⟩

/-- The payload is the template with the fields substituted, each by its item's value. -/
theorem map_itemValue (c : Cfg) (st : TypedStatus) (items : List Item) : items.map (itemValue c st)
    = substituted c (bitmapValue st) (discValue st) (lastFailed st) st.common items := by
  refine List.map_congr_left fun it _ => ?_
  cases it with
  | track => exact bcd8_trackFold c st.common.currentTrack
  | k | audio | bitmap | disc | err => rfl

theorem statusEncode_eq (c : Cfg) (st : TypedStatus) : statusEncode c st =
    (c.destByte (c.template.get st.variant.case).dest,
      substituted c (bitmapValue st) (discValue st) (lastFailed st) st.common (c.template.get st.variant.case).items) := by
  rw [statusEncode, map_itemValue]

/-- Only `CheckingForDisc` puts its own values in the places of the bitmap, the disc and the `ERR` byte. -/
theorem values_of_plain {v : Variant} (cm : Common) (h : ∀ m d x, v ≠ .checkingForDisc m d x) :
    bitmapValue ⟨v, cm⟩ = cm.discBitmap ∧ discValue ⟨v, cm⟩ = cm.currentDisc ∧ lastFailed ⟨v, cm⟩ = false := by
  cases v with
  | checkingForDisc m d x => exact absurd rfl (h m d x)
  | _ => exact ⟨rfl, rfl, rfl⟩

theorem exec_statusEncode (st : TypedStatus) (s : State) :
    Returns s (exec (.statusEncode st) s) (.encoded (statusEncode s.cfg st).1 (statusEncode s.cfg st).2) := rfl

/-- Settles O40: the pair of `STATUS_ENCODE` is the template's, with the variant's values. -/
theorem statusEncodeSubstitutesTheTemplate : Obligations.StatusEncodeSubstitutesTheTemplate := by
  intro s cm
  constructor
  · rintro v t rfl hplain
    obtain ⟨hbitmap, hdisc, hfailed⟩ := values_of_plain cm hplain
    have hret := exec_statusEncode ⟨v, cm⟩ s
    rwa [statusEncode_eq, hbitmap, hdisc, hfailed] at hret
  · intro mask d failed
    have hret := exec_statusEncode ⟨.checkingForDisc mask d failed, cm⟩ s
    rwa [statusEncode_eq] at hret

/-! `SEND_STATUS` and the outbound messages (R253 to R264). -/

theorem template_size_of_wf {c : Cfg} (h : c.wf = true) (k : StatusCase) :
    1 ≤ (c.template.get k).items.length ∧ (c.template.get k).items.length ≤ 20 := by
  have hmax := maxPayloadTx_of_wf h
  have hsize : (c.template.get k).sizeOk c.maxPayloadTx = true := by
    simp only [Cfg.wf, Cfg.templateOk, Bool.and_eq_true, List.all_eq_true] at h
    refine h.2.1.1.1 _ ?_
    cases k <;> simp [Templates.get]
  simpa [Template.sizeOk, hmax] using hsize

/-- The payload `STATUS_ENCODE` gives is never rejected. -/
theorem length_statusEncode_of_wf {c : Cfg} (h : c.wf = true) (st : TypedStatus) :
    1 ≤ (statusEncode c st).2.length ∧ (statusEncode c st).2.length ≤ 20 := by
  simpa [statusEncode] using template_size_of_wf h st.variant.case

/-- The image of a status. -/
theorem statusImage_of_wf {c : Cfg} (h : c.wf = true) (st : TypedStatus) :
    statusImage c st = some (imageSpec c.selfAddr (statusEncode c st).1 (statusEncode c st).2) :=
  framePopulate_of_good_length h _ _ (length_statusEncode_of_wf h st)

theorem sendStatus_of_canQueue {s : State} (h : s.cfg.wf = true) (hcan : CanQueue s) (st : TypedStatus) :
    QueuesFrame s (sendStatus st s) (imageSpec s.cfg.selfAddr (statusEncode s.cfg st).1 (statusEncode s.cfg st).2) :=
  txSend_of_canQueue (statusImage_of_wf h st) (length_imageSpec_le_slotBytes h _ _ (length_statusEncode_of_wf h st).2) hcan

theorem sendStatus_of_not_canQueue {s : State} (h : s.cfg.wf = true) (hcannot : ¬ CanQueue s) (st : TypedStatus) :
    Holds s (sendStatus st s) :=
  txSend_of_not_canQueue (statusImage_of_wf h st) hcannot

/-- The frame a status queues is its own template's, with the fields substituted. -/
theorem sendStatus_queues_template {s : State} (h : s.cfg.wf = true) (hcan : CanQueue s) (st : TypedStatus) :
    QueuesFrame s (sendStatus st s) (imageSpec s.cfg.selfAddr (s.cfg.destByte (s.cfg.template.get st.variant.case).dest)
      (substituted s.cfg (bitmapValue st) (discValue st) (lastFailed st) st.common
        (s.cfg.template.get st.variant.case).items)) := by
  have hqueues := sendStatus_of_canQueue h hcan st
  rwa [statusEncode_eq] at hqueues

/-- Settles O41: each message is its status sent. -/
theorem outboundMessagesQueueTheirTemplates : Obligations.OutboundMessagesQueueTheirTemplates := by
  intro s cm mask d failed h hcan
  have hsend := sendStatus_queues_template h hcan
  exact ⟨hsend ⟨.stopped, cm⟩, hsend ⟨.paused, cm⟩, hsend ⟨.playing, cm⟩, hsend ⟨.fastPlaying .fwd, cm⟩,
    hsend ⟨.fastPlaying .rev, cm⟩, hsend ⟨.seeking .fwd, cm⟩, hsend ⟨.seeking .rev, cm⟩, hsend ⟨.loadingDisc, cm⟩,
    hsend ⟨.checkingForDisc mask d failed, cm⟩, hsend ⟨.announce, cm⟩, hsend ⟨.pollResponse, cm⟩⟩

theorem returned_unique {s : State} {o : Out} {r r' : Ret} (h : Returns s o r) (h' : Returns s o r') : r = r' :=
  congrArg State.ret (Host.Outcome.next.inj (h.symm.trans h'))

/-- Settles O42: the send of the encoded pair, whose length is never rejected. -/
theorem sendStatusQueuesOrHolds : Obligations.SendStatusQueuesOrHolds := by
  intro s st h
  refine ⟨fun dest payload hret => ?_, fun hcan => ?_, fun hcannot => sendStatus_of_not_canQueue h hcannot st⟩
  · obtain ⟨rfl, rfl⟩ := Ret.encoded.inj (returned_unique (exec_statusEncode st s) hret)
    rfl
  · have hlen := length_statusEncode_of_wf h st
    exact ⟨_, sendStatus_of_canQueue h hcan st, frameValidate_imageSpec h _ _ (by omega)⟩

/-- Settles O43: our address is the source of the image, so the decoder takes it for an echo. -/
theorem ownStatusesAreNeverDecoded : Obligations.OwnStatusesAreNeverDecoded := by
  intro c st h
  have hlen := length_statusEncode_of_wf h st
  refine ⟨_, statusImage_of_wf h st, frameValidate_imageSpec h _ _ (by omega), ?_⟩
  obtain ⟨r, hr⟩ := decode_of_echo (c := c) (f := imageSpec c.selfAddr (statusEncode c st).1 (statusEncode c st).2) rfl
  exact cmdDecode_of_error hr

/-! Reading an outbound payload back by the default templates (R111, R112). -/

theorem unBcd_bcd8 (m : Fin 100) : unBcd (bcd8 m.val) = BitVec.ofNat 8 m.val := by
  revert m
  decide

theorem unBcd_trackByte (c : Cfg) (t : Byte) : unBcd (bcd8 (trackFold c t)) = BitVec.ofNat 8 (trackFold c t) := by
  have hfold : trackFold c t < 100 := by
    rw [trackFold_eq_foldSpec]
    exact Nat.lt_succ_of_le (foldSpec_range c t).2
  exact unBcd_bcd8 ⟨trackFold c t, hfold⟩

/-- What a status-shaped payload binds: nothing against another state byte. -/
theorem bindItems_statusTemplate (x y a b d t : Byte) (failed : Bool) :
    bindItems {} (statusTemplate x).items [0x39, y, a, if failed then 0x08 else 0x00, b, 0x00, d, t] =
      if y = x then some ⟨some a, some b, some d, some (unBcd t), some failed⟩ else none := by
  by_cases hxy : y = x <;> cases failed <;> simp [statusTemplate, bindItems, bindItem, bindField, hxy]

/-- The payload of a status of the default shape. -/
theorem statusEncode_of_shape {c : Cfg} {st : TypedStatus} {x : Byte} (hcase : c.template.get st.variant.case = statusTemplate x) :
    (statusEncode c st).2 = [0x39, x, st.common.audioState, if lastFailed st then 0x08 else 0x00, bitmapValue st, 0x00,
      discValue st, bcd8 (trackFold c st.common.currentTrack)] := by
  simp only [statusEncode, hcase]
  rfl

theorem readCase_of_shape {c : Cfg} {k : StatusCase} {x : Byte} (hk : c.template.get k = statusTemplate x)
    (y a b d t : Byte) (failed : Bool) :
    readCase c [0x39, y, a, if failed then 0x08 else 0x00, b, 0x00, d, t] k =
      if y = x then messageOfBound k ⟨some a, some b, some d, some (unBcd t), some failed⟩ else none := by
  rw [readCase, hk, bindItems_statusTemplate]
  split <;> rfl

/-- The state bytes of the default templates, in the order of R111. -/
def shapeBytes : List (StatusCase × Byte) :=
  [(.stopped, 0x00), (.paused, 0x01), (.playing, 0x02), (.fastPlayingF, 0x03), (.fastPlayingR, 0x04), (.seekingF, 0x05),
    (.seekingR, 0x06), (.loadingDisc, 0x08), (.checkingForDisc, 0x09)]

theorem default_shape {r : StatusCase × Byte} (hr : r ∈ shapeBytes) : Templates.default.get r.1 = statusTemplate r.2 := by
  revert r
  decide

theorem findSome?_congr {α β : Type} {l : List α} {f g : α → Option β} (h : ∀ a ∈ l, f a = g a) :
    l.findSome? f = l.findSome? g := by
  induction l with
  | nil => rfl
  | cons a l ih =>
    rw [List.findSome?_cons, List.findSome?_cons, h a List.mem_cons_self, ih fun b hb => h b (List.mem_cons_of_mem a hb)]

/-- A payload of the default shape is read by its state byte alone. -/
theorem decodeStatus_of_shape {c : Cfg} (h : c.template = Templates.default) (y a b d t : Byte) (failed : Bool) :
    decodeStatus c [0x39, y, a, if failed then 0x08 else 0x00, b, 0x00, d, t] = shapeBytes.findSome? fun r =>
        if y = r.2 then messageOfBound r.1 ⟨some a, some b, some d, some (unBcd t), some failed⟩ else none := by
  have hread : ∀ r ∈ shapeBytes, readCase c [0x39, y, a, if failed then 0x08 else 0x00, b, 0x00, d, t] r.1 =
      if y = r.2 then messageOfBound r.1 ⟨some a, some b, some d, some (unBcd t), some failed⟩ else none := fun r hr =>
    readCase_of_shape (by rw [h, default_shape hr]) y a b d t failed
  have hshort : ∀ k ∈ [StatusCase.announce, .pollResponse],
      readCase c [0x39, y, a, if failed then 0x08 else 0x00, b, 0x00, d, t] k = none := by
    rintro k hk
    rw [readCase, h]
    obtain rfl | rfl : k = .announce ∨ k = .pollResponse := by simpa using hk
    · rfl
    · rfl
  have hcases : statusCases = shapeBytes.map Prod.fst ++ [.announce, .pollResponse] := rfl
  rw [decodeStatus, hcases, List.findSome?_append, List.findSome?_eq_none_iff.mpr hshort, Option.or_none, List.findSome?_map]
  exact findSome?_congr hread

/-- A status of the default shape reads back as the message its state byte selects, with the track folded. -/
theorem decodeStatus_statusEncode {c : Cfg} (h : c.template = Templates.default) {st : TypedStatus} {k : StatusCase} {x : Byte}
    (hk : st.variant.case = k) (hx : (k, x) ∈ shapeBytes) :
    decodeStatus c (statusEncode c st).2 = shapeBytes.findSome? fun r =>
      if x = r.2 then messageOfBound r.1 ⟨some st.common.audioState, some (bitmapValue st), some (discValue st),
        some (BitVec.ofNat 8 (trackFold c st.common.currentTrack)), some (lastFailed st)⟩ else none := by
  rw [statusEncode_of_shape (by rw [h, hk]; exact default_shape hx), decodeStatus_of_shape h, unBcd_trackByte]

/-- Reading a payload looks at the templates only. -/
theorem decodeStatus_of_default {c : Cfg} (h : c.template = Templates.default) (p : List Byte) :
    decodeStatus c p = statusCases.findSome? fun k =>
      (bindItems {} (Templates.default.get k).items p).bind (messageOfBound k) := by
  rw [← h]
  rfl

/-- Settles O26: the state byte selects the case, and the two-byte payloads are read by their last byte. -/
theorem outboundPayloadReadsBack : Obligations.OutboundPayloadReadsBack := by
  intro c i st h hst
  have hdest : (statusEncode c st).1 = c.destByte (Templates.default.get st.variant.case).dest := by
    rw [← h]
    rfl
  have hshape (k : StatusCase) (x : Byte) := decodeStatus_statusEncode (st := st) (k := k) (x := x) h
  have hpayload : (statusEncode c st).2 = (Templates.default.get st.variant.case).items.map (itemValue c st) := by
    rw [← h]
    rfl
  cases i with
  | stStopped cm => cases hst; exact ⟨hshape .stopped 0x00 rfl (by decide), hdest⟩
  | stPaused cm => cases hst; exact ⟨hshape .paused 0x01 rfl (by decide), hdest⟩
  | stPlaying cm => cases hst; exact ⟨hshape .playing 0x02 rfl (by decide), hdest⟩
  | stFastplayingF cm => cases hst; exact ⟨hshape .fastPlayingF 0x03 rfl (by decide), hdest⟩
  | stFastplayingR cm => cases hst; exact ⟨hshape .fastPlayingR 0x04 rfl (by decide), hdest⟩
  | stSeekingF cm => cases hst; exact ⟨hshape .seekingF 0x05 rfl (by decide), hdest⟩
  | stSeekingR cm => cases hst; exact ⟨hshape .seekingR 0x06 rfl (by decide), hdest⟩
  | stLoadingdisc cm => cases hst; exact ⟨hshape .loadingDisc 0x08 rfl (by decide), hdest⟩
  | stCheckingfordisc cm mask disc failed =>
    cases hst
    refine ⟨(hshape .checkingForDisc 0x09 rfl (by decide)).trans ?_, hdest⟩
    cases disc <;> rfl
  | announce cm | pollResponse cm =>
    cases hst
    refine ⟨?_, hdest⟩
    rw [decodeStatus_of_default h, hpayload]
    rfl
  | _ => cases hst

/-- Settles O27: each word, read in its frame by the default configuration. -/
theorem writtenOutWordsDecode : Obligations.WrittenOutWordsDecode :=
  ⟨by decide, by decide, by decide, by decide, by decide, by decide, by decide, by decide⟩

end Sys2Proof.Machine

/-! ### PROOFS. The whole machine: what every step changes and leaves unchanged, and that none stops -/

namespace Sys2Proof.Machine

/-! What a step runs (log 13, 25). -/

theorem decode_isInbound {c : Cfg} {f : List Byte} {i : Instr} (h : decode c f = .ok i) : isInbound i = true := by
  obtain ⟨-, ⟨-, rfl⟩ | ⟨-, -, -, rfl⟩ | ⟨-, -, -, hrow⟩⟩ := decodeValid_cases (decode_ok h).2
  · rfl
  · rfl
  · exact (decodeCdc_ok hrow).2.1

theorem fetchMessage_isInbound {s : State} {i : Instr} (h : fetchMessage s = some i) : isInbound i = true := by
  unfold fetchMessage at h
  split at h
  · cases h
  · split at h
    · rename_i f _ _
      cases hdec : decode s.cfg f with
      | ok j =>
        rw [hdec] at h
        obtain rfl : j = i := Option.some.inj h
        exact decode_isInbound hdec
      | error r =>
        rw [hdec] at h
        cases h
    · cases h

theorem not_isInbound_of_isSubStep {i : Instr} (h : isSubStep i = true) : isInbound i = false := by
  cases i with
  | poolTryAlloc | frameEnd => rfl
  | _ => cases h

theorem step_cons {s : State} {k : Nat} {i : Instr} {rest : List Entry} (h : s.cfg.wf = true)
    (hsched : s.sched = ⟨k, .op i⟩ :: rest) : step s = issue i { s with sched := rest, pick := k } := by
  rw [step, if_pos h, hsched]
  rfl

theorem issue_of_issuable {i : Instr} {s : State} (h : issuable i s = true) : issue i s = exec i s := if_pos h

theorem issue_of_not_issuable {i : Instr} {s : State} (h : issuable i s = false) : Holds s (issue i s) :=
  if_neg (Bool.eq_false_iff.mp h)

theorem issue_of_operation {i : Instr} (hop : isInbound i = false) (hevent : isSubStep i = false) (s : State) :
    issue i s = exec i s :=
  issue_of_issuable ((issuable_iff i s).mpr (.inr ⟨hop, hevent⟩))

theorem holds_issue_of_subStep {i : Instr} (h : isSubStep i = true) (s : State) : Holds s (issue i s) := by
  refine issue_of_not_issuable (Bool.eq_false_iff.mpr fun hissuable => ?_)
  have hop := not_isInbound_of_isSubStep h
  rcases (issuable_iff i s).mp hissuable with ⟨hin, -⟩ | ⟨-, hno⟩
  · simp [hop] at hin
  · simp [h] at hno

/-- Settles O23: an entry is issued, and the RX task's step is the delivery of the message it decodes. -/
theorem stepRunsTheDecodedInstruction : Obligations.StepRunsTheDecodedInstruction := by
  intro s k h n rest q f i hwf
  refine ⟨fun hsched head tag len inPool fits read hdec => ?_, fun hsched hruns => ?_, fun hsched hholds => ?_⟩
  · rw [step_cons hwf hsched, issue_of_operation rfl rfl, exec_of_inbound (decode_isInbound hdec), ← cmdDecode_of_decode hdec]
    have hbytes := runBytes_of_read (s := { s with sched := rest, pick := k }) inPool len fits read
    exact exec_rxtStep_of_result head (runResult_of_ok tag hbytes)
  · rw [step_cons hwf hsched]
    refine issue_of_issuable ((issuable_iff i _).mpr ?_)
    obtain hop | hfetched := hruns
    · exact .inr hop
    · exact .inl ⟨fetchMessage_isInbound hfetched, hfetched⟩
  · rw [step_cons hwf hsched]
    obtain hsub | ⟨hin, hnot⟩ := hholds
    · exact holds_issue_of_subStep hsub _
    · refine issue_of_not_issuable (Bool.eq_false_iff.mpr fun hissuable => ?_)
      obtain ⟨-, hfetched⟩ | ⟨hno, -⟩ := (issuable_iff i _).mp hissuable
      · exact hnot hfetched
      · simp [hin] at hno

/-! Reset and quiescence. -/

theorem getElem?_replicate_false (n i : Nat) : (List.replicate n false)[i]? ≠ some true := by
  rw [List.getElem?_replicate]
  split <;> simp

theorem tracks_reset (n : Nat) : Tracks [] (List.replicate n false) :=
  ⟨List.nodup_nil, fun i => iff_of_false List.not_mem_nil (getElem?_replicate_false n i)⟩

/-- Settles O45: after reset nothing is owned, queued or written. -/
theorem resetMeetsTheRunInvariant : Obligations.ResetMeetsTheRunInvariant := by
  intro c cts0 h
  have htracks : ∀ p, Tracks (owned (State.resetWith c cts0) p) ((State.resetWith c cts0).slots p).inUse := fun
    | .prx => tracks_reset c.nRx
    | .ptx => tracks_reset c.nTx
  exact {
    cfgOk := h
    prxBits := List.length_replicate
    prxLens := List.length_replicate
    prxTags := List.length_replicate
    ptxBits := List.length_replicate
    ptxLens := List.length_replicate
    memCanonical := rfl
    memInside := nofun
    scratchFits := Nat.zero_le _
    scratchWritten := rfl
    rxqFits := Nat.zero_le _
    txqFits := Nat.zero_le _
    cmdqFits := Nat.zero_le _
    ownedOnce := fun p => (htracks p).1
    ownedInUse := fun p => (htracks p).2
    rxWritten := nofun
    txWritten := nofun
    dmaSending := nofun
    sendingWakes := nofun
    wakeSending := fun _ => rfl
    dmaInside := nofun }

theorem not_enabled_of_holds {a : Action} {s : State} (h : Holds s (perform a s)) : ¬ Enabled a s := by
  rintro ⟨t, hperform, hret⟩
  obtain rfl := Host.Outcome.next.inj (h.symm.trans hperform)
  exact hret rfl

theorem holds_issue_of_exec {i : Instr} {s : State} (h : Holds s (exec i s)) : Holds s (issue i s) := by
  cases hissuable : issuable i s with
  | true => rwa [issue_of_issuable hissuable]
  | false => exact issue_of_not_issuable hissuable

theorem holds_issue_of_inbound {i : Instr} {s : State} (h : isInbound i = true) (hnil : s.rxq = []) : Holds s (issue i s) := by
  refine holds_issue_of_exec ?_
  rw [exec_of_inbound h]
  simp only [Holds, deliver, hnil, hold, finish]

/-- In a quiescent state every operation of the block's own agents that is no event holds (R337, R352). -/
theorem Quiescent.holds {u : State} (h : Quiescent u) {i : Instr} (hi : i = .rxtStep ∨ i = .txtStart ∨ i = .dmaByte
    ∨ i = .dmaComplete ∨ i = .arbStep ∨ i = .txtWakeColl ∨ i = .txtWakeDone ∨ i = .txtGapEnd) : Holds u (exec i u) := by
  obtain ⟨hrxq, htxq, -, -, -, hidle, hoff, -, hfall, -⟩ := h
  have hnotSending : u.txs ≠ .sending := by rw [hidle]; decide
  have hnotGap : u.txs ≠ .gap := by rw [hidle]; decide
  obtain rfl | rfl | rfl | rfl | rfl | rfl | rfl | rfl := hi
  · exact exec_rxtStep_of_nil hrxq
  · exact exec_txtStart_of_not_ready (.inr (.inl htxq))
  · exact exec_dmaByte_of_none_left (n := 0) (.inl hoff)
  · exact if_neg (Bool.eq_false_iff.mp hoff)
  · exact exec_arbStep_of_none hfall
  · exact exec_txtWakeColl_of_not_woken (.inl hnotSending)
  · exact exec_txtWakeDone_of_not_woken (.inl hnotSending)
  · exact exec_txtGapEnd_of_not_gap hnotGap

theorem quiescent_reset (c : Cfg) (cts0 : Bool) : Quiescent (State.resetWith c cts0) :=
  ⟨rfl, rfl, rfl, rfl, rfl, rfl, rfl, rfl, rfl, fun
    | .prx => getElem?_replicate_false c.nRx
    | .ptx => getElem?_replicate_false c.nTx⟩

theorem enabled_of_quiescent {u : State} {i : Instr} (h : Quiescent u) (henabled : Enabled (.op i) u) :
    isEvent i = true ∨ agentOf i = some .host ∨ agentOf i = none := by
  have hexec (hi) : isEvent i = true ∨ agentOf i = some .host ∨ agentOf i = none :=
    absurd henabled (not_enabled_of_holds (holds_issue_of_exec (h.holds hi)))
  have hinbound (hi : isInbound i = true) : isEvent i = true ∨ agentOf i = some .host ∨ agentOf i = none :=
    absurd henabled (not_enabled_of_holds (holds_issue_of_inbound hi h.1))
  have hsub (hi : isSubStep i = true) : isEvent i = true ∨ agentOf i = some .host ∨ agentOf i = none :=
    absurd henabled (not_enabled_of_holds (holds_issue_of_subStep hi u))
  cases i with
  | rxByte | rxParityErr | rxIdle | ctsFall | ctsRise => exact .inl rfl
  | rxtStep | txtStart | dmaByte | dmaComplete | arbStep | txtWakeColl | txtWakeDone | txtGapEnd => exact hexec (by simp)
  | poolTryAlloc | frameEnd => exact hsub rfl
  | traffic | poll | cdcStatus | cdcStop | cdcPause | cdcPlay | cdcFastplay | cdcSeek | cdcAltseek | cdcChangedisc
  | cdcScandisc | cdcRandomize => exact hinbound rfl
  | cmdTake | txSend | sendStatus | stStopped | stPaused | stPlaying | stFastplayingF | stFastplayingR | stSeekingF
  | stSeekingR | stLoadingdisc | stCheckingfordisc | announce | pollResponse => exact .inr (.inl rfl)
  | poolAlloc | poolFree | xor8 | frameValidate | frameParse | framePopulate | cmdDecode | trackFold | bcd8
  | statusEncode => exact .inr (.inr rfl)

theorem getElem?_replicate_lt {n i : Nat} (h : i < n) : (List.replicate n false)[i]? = some false := by
  rw [List.getElem?_replicate, if_pos h]

/-- Settles O44: the table is by definition, and the rest is quiescence. -/
theorem resetLeavesTheTableOfValues : Obligations.ResetLeavesTheTableOfValues := by
  intro c cts0
  refine ⟨rfl, fun i hi => getElem?_replicate_lt hi, fun i hi => getElem?_replicate_lt hi, fun a => rfl, rfl, rfl, rfl, rfl, rfl,
    rfl, rfl, rfl, rfl, rfl, rfl, rfl, rfl, rfl, quiescent_reset c cts0, rfl, rfl, rfl, rfl, rfl, rfl, rfl,
    fun i hi => (quiescent_reset c cts0).holds hi, ?_, fun u i => enabled_of_quiescent⟩
  rintro i (⟨tag, rfl⟩ | ⟨p, rfl⟩)
  · exact holds_issue_of_subStep rfl _
  · exact holds_issue_of_subStep rfl _

/-! No step stops (R335). -/

theorem Inv.lt_of_owned {s : State} (h : Inv s) {p : Pool} {i : Nat} (hi : i ∈ owned s p) : i < s.cfg.slotCount p := by
  have hlt := (List.getElem?_eq_some_iff.mp ((h.ownedInUse p i).mp hi)).1
  cases p with
  | prx => exact hlt.trans_eq h.prxBits
  | ptx => exact hlt.trans_eq h.ptxBits

theorem Inv.lt_of_rxq {s : State} (h : Inv s) {i : Nat} (hi : i ∈ s.rxq) : i < s.cfg.nRx :=
  h.lt_of_owned (p := .prx) (List.mem_append_left _ hi)

theorem Inv.lt_of_tx {s : State} (h : Inv s) {i : Nat} (hi : i ∈ inFlight s ++ s.txq) : i < s.cfg.nTx :=
  h.lt_of_owned (p := .ptx) (List.mem_append_left _ hi)

theorem exists_deliver (r : Option TypedCommand) (s : State) : ∃ t, deliver r s = .next t := by
  unfold deliver
  split
  · exact ⟨_, rfl⟩
  · split <;> exact ⟨_, rfl⟩

/-- The head run can be read: its slot has a tag, a length and its bytes. -/
theorem Inv.exists_runResult {s : State} (h : Inv s) {i : Nat} (hi : i ∈ s.rxq) : ∃ r, runResult s i = .ok r := by
  have hlt := h.lt_of_rxq hi
  obtain ⟨-, -, -, -, -, -, -, hcap⟩ := sizes_of_wf h.cfgOk
  obtain ⟨n, hlen, hn, hwritten⟩ := h.rxWritten i hi
  obtain ⟨f, hread⟩ := Option.isSome_iff_exists.mp hwritten
  obtain ⟨tag, htag⟩ : ∃ tag, s.prxTag[i]? = some tag := ⟨_, List.getElem?_eq_getElem (h.prxTags ▸ hlt)⟩
  by_cases hok : tag = .ok
  · exact ⟨_, runResult_of_ok (hok ▸ htag) (runBytes_of_read hlt hlen (by omega) hread)⟩
  · exact ⟨none, runResult_of_bad_tag htag hok⟩

theorem Inv.exists_rxtStep {s : State} (h : Inv s) : ∃ t, exec .rxtStep s = .next t := by
  cases hq : s.rxq with
  | nil => exact ⟨_, exec_rxtStep_of_nil hq⟩
  | cons i rest =>
    obtain ⟨r, hr⟩ := h.exists_runResult (i := i) (by simp [hq])
    rw [exec_rxtStep_of_result hq hr]
    exact exists_deliver r s

theorem exists_txSend {s : State} (h : s.cfg.wf = true) (src dst : Byte) (p : List Byte) : ∃ t, txSend src dst p s = .next t := by
  by_cases hp : p.length = 0 ∨ 20 < p.length
  · exact ⟨_, txSend_of_reject (framePopulate_of_bad_length h src dst hp)⟩
  · have hgood : 1 ≤ p.length ∧ p.length ≤ 20 := by omega
    have himg := framePopulate_of_good_length h src dst hgood
    by_cases hcan : CanQueue s
    · obtain ⟨i, m, -, -, hnext, -⟩ := txSend_of_canQueue himg (length_imageSpec_le_slotBytes h src dst hgood.2) hcan
      exact ⟨_, hnext⟩
    · exact ⟨_, txSend_of_not_canQueue himg hcan⟩

/-- While a transfer is active its slot has a length and that many bytes (R185). -/
theorem Inv.exists_inFlight {s : State} (h : Inv s) (active : s.dmaActive = true) :
    ∃ n, s.ptx.len[s.txCur]? = some n ∧ n ≤ s.cfg.slotBytes ∧ s.txCur < s.cfg.nTx
      ∧ written s.mem (slotBase s.cfg .ptx s.txCur) n := by
  have hmem : s.txCur ∈ inFlight s ++ s.txq := by simp [inFlight_of_sending (h.dmaSending active).1]
  obtain ⟨-, -, -, -, -, hslot, -⟩ := sizes_of_wf h.cfgOk
  obtain ⟨n, hlen, hn, hwritten⟩ := h.txWritten s.txCur hmem
  have hmax : s.cfg.maxFrameTx = 24 := by rw [Cfg.maxFrameTx, maxPayloadTx_of_wf h.cfgOk]
  exact ⟨n, hlen, by omega, h.lt_of_tx hmem, hwritten⟩

theorem Inv.exists_dmaByte {s : State} (h : Inv s) : ∃ t, exec .dmaByte s = .next t := by
  by_cases hactive : s.dmaActive = true
  · obtain ⟨n, hlen, hfits, hpool, hwritten⟩ := h.exists_inFlight hactive
    by_cases hleft : s.dmaIdx < n
    · obtain ⟨b, hb⟩ := Option.isSome_iff_exists.mp ((written_iff _ _ _).mp hwritten s.dmaIdx hleft)
      exact ⟨_, exec_dmaByte_of_left hactive hlen hleft hpool hfits hb⟩
    · exact ⟨_, exec_dmaByte_of_none_left (.inr ⟨hlen, Nat.le_of_not_lt hleft⟩)⟩
  · exact ⟨_, exec_dmaByte_of_none_left (n := 0) (.inl (by simpa using hactive))⟩

theorem Inv.exists_dmaComplete {s : State} (h : Inv s) : ∃ t, exec .dmaComplete s = .next t := by
  by_cases hactive : s.dmaActive = true
  · obtain ⟨n, hlen, -⟩ := h.exists_inFlight hactive
    by_cases hall : s.dmaIdx = n
    · exact ⟨_, exec_dmaComplete_of_all hactive (hall ▸ hlen)⟩
    · exact ⟨_, exec_dmaComplete_of_left hlen (.inr hall)⟩
  · exact ⟨_, if_neg hactive⟩

theorem exists_of_ite {p : Prop} [Decidable p] {o o' : Out} (h : ∃ t, o = .next t) (h' : ∃ t, o' = .next t) :
    ∃ t, (if p then o else o') = .next t := by
  split
  · exact h
  · exact h'

theorem exists_finish (r : Ret) (s : State) : ∃ t, finish r s = .next t := ⟨_, rfl⟩

theorem exists_hold (s : State) : ∃ t, hold s = .next t := ⟨_, rfl⟩

theorem exists_poolAlloc (p : Pool) (s : State) : ∃ t, exec (.poolAlloc p) s = .next t := by
  cases hclaim : claim s p with
  | none => exact ⟨_, exec_poolAlloc_of_exhausted hclaim⟩
  | some r => exact ⟨_, exec_poolAlloc_of_claim hclaim⟩

theorem exists_poolTryAlloc (p : Pool) (s : State) : ∃ t, exec (.poolTryAlloc p) s = .next t := by
  cases hclaim : claim s p with
  | none => exact ⟨_, exec_poolTryAlloc_of_exhausted hclaim⟩
  | some r => exact ⟨_, exec_poolTryAlloc_of_claim hclaim⟩

theorem exists_cmdTake (s : State) : ∃ t, exec .cmdTake s = .next t := by
  cases hq : s.cmdq with
  | nil => exact ⟨_, exec_cmdTake_nil hq⟩
  | cons c rest => exact ⟨_, exec_cmdTake_cons hq⟩

theorem exists_txtStart (s : State) : ∃ t, exec .txtStart s = .next t := by
  change ∃ t, execTxtStart s = _
  unfold execTxtStart
  split
  · exact exists_hold s
  · exact exists_of_ite (exists_finish _ _) (exists_hold s)

/-- From a state of the invariant every instruction's meaning is a next state. -/
theorem Inv.exists_exec {s : State} (h : Inv s) (i : Instr) : ∃ t, exec i s = .next t := by
  have hreceive {i : Instr} (hi) : ∃ t, exec i s = .next t :=
    let ⟨t, ht, _⟩ := receiveInterruptsNeverHold s i h hi
    ⟨t, ht⟩
  cases i with
  | poolAlloc p => exact exists_poolAlloc p s
  | poolTryAlloc p => exact exists_poolTryAlloc p s
  | rxByte b => exact hreceive (.inl ⟨b, rfl⟩)
  | rxParityErr => exact hreceive (.inr (.inl rfl))
  | rxIdle => exact hreceive (.inr (.inr (.inl rfl)))
  | frameEnd tag => exact hreceive (.inr (.inr (.inr ⟨tag, rfl⟩)))
  | rxtStep => exact h.exists_rxtStep
  | cmdTake => exact exists_cmdTake s
  | txtStart => exact exists_txtStart s
  | dmaByte => exact h.exists_dmaByte
  | dmaComplete => exact h.exists_dmaComplete
  | poolFree | ctsFall | ctsRise | txtWakeDone | txtGapEnd => exact exists_of_ite (exists_finish _ _) ⟨_, rfl⟩
  | arbStep | txtWakeColl => exact exists_of_ite (exists_of_ite ⟨_, rfl⟩ ⟨_, rfl⟩) (exists_hold s)
  | xor8 | frameValidate | frameParse | framePopulate | cmdDecode | trackFold | bcd8 | statusEncode => exact exists_finish _ s
  | traffic | poll | cdcStatus | cdcStop | cdcPause | cdcPlay | cdcFastplay | cdcSeek | cdcAltseek | cdcChangedisc
  | cdcScandisc | cdcRandomize => exact exists_deliver _ s
  | txSend | sendStatus | stStopped | stPaused | stPlaying | stFastplayingF | stFastplayingR | stSeekingF | stSeekingR
  | stLoadingdisc | stCheckingfordisc | announce | pollResponse => exact exists_txSend h.cfgOk _ _ _

theorem exists_hostSend {s : State} (h : s.cfg.wf = true) (st : TypedStatus) (k : State → State) :
    ∃ t, hostSend st s k = .next t := by
  obtain ⟨u, hu⟩ := exists_txSend h s.cfg.selfAddr (statusEncode s.cfg st).1 (statusEncode s.cfg st).2
  have hsend : sendStatus st s = .next u := hu
  simp only [hostSend, hsend]
  exact exists_of_ite ⟨_, rfl⟩ ⟨_, rfl⟩

theorem exists_hostExec {s : State} (h : s.cfg.wf = true) (k : HostStep) : ∃ t, hostExec k s = .next t := by
  cases k with
  | boot => exact exists_of_ite (exists_hold s) (exists_hostSend h _ _)
  | announceTick => exact exists_of_ite (exists_hostSend h _ _) (exists_hold s)
  | cmd =>
    refine exists_of_ite ?_ (exists_hold s)
    split <;> exact ⟨_, rfl⟩
  | engine e =>
    refine exists_of_ite ?_ (exists_hold s)
    cases e <;> exact ⟨_, rfl⟩
  | sensor b =>
    refine exists_of_ite ?_ (exists_hold s)
    split <;> exact ⟨_, rfl⟩
  | resume =>
    change ∃ t, hostResume s = _
    unfold hostResume
    split
    · exact exists_hold s
    · exact exists_hostSend h _ _
    · exact exists_hostSend h _ _
    · exact ⟨_, rfl⟩

theorem Inv.exists_perform {s : State} (h : Inv s) (a : Action) : ∃ t, perform a s = .next t := by
  cases a with
  | op i => exact exists_of_ite (h.exists_exec i) (exists_hold s)
  | host k => exact exists_hostExec h.cfgOk k

/-- Settles O47: the entry taken is performed in a state of the invariant. -/
theorem noStepFromTheRunInvariantStops : Obligations.NoStepFromTheRunInvariantStops := by
  intro s h
  rw [step, if_pos h.cfgOk]
  split
  · exact ⟨s, rfl⟩
  · rename_i e rest _
    have htaken : Inv (takeEntry e rest s) := { h with }
    exact htaken.exists_perform e.act

end Sys2Proof.Machine

/-! ### PROOFS. Invariants over every step: room in the queues, the order of pending transmissions, the transitions of the sequencer,
the histories, and what a slot waiting to be sent is safe from -/

namespace Sys2Proof.Machine

/-! Room (R30, R31). -/

theorem length_le_of_nodup_lt {l : List Nat} {n : Nat} (hnodup : l.Nodup) (hlt : ∀ i ∈ l, i < n) : l.length ≤ n := by
  have hsub : l ⊆ List.range n := fun i hi => List.mem_range.mpr (hlt i hi)
  simpa using (List.subperm_of_subset hnodup hsub).length_le

theorem Tracks.lt_length {l : List Nat} {bits : List Bool} (h : Tracks l bits) : ∀ i ∈ l, i < bits.length := fun i hi =>
  (List.getElem?_eq_some_iff.mp ((h.2 i).mp hi)).1

/-- A free slot is one that no owner has. -/
theorem Tracks.length_lt_of_free {l : List Nat} {bits : List Bool} (h : Tracks l bits) {i : Nat}
    (hfree : bits[i]? = some false) : l.length < bits.length := by
  simpa using length_le_of_nodup_lt (h.acquire hfree).1 (h.acquire hfree).lt_length

/-- Settles O48: the owners are distinct indices of the pool. -/
theorem freeSlotMeansRoomInItsQueue : Obligations.FreeSlotMeansRoomInItsQueue := by
  intro s h
  have hrx := h.tracks_prx
  have htx := h.tracks_ptx
  refine ⟨fun hcap ⟨i, _, hfree⟩ => ?_, fun hcap => ⟨fun ⟨i, _, hfree⟩ => ?_, fun hsending => ?_⟩⟩
  · have := hrx.length_lt_of_free hfree
    rw [List.length_append, h.prxBits] at this
    omega
  · have := htx.length_lt_of_free hfree
    rw [List.length_append, List.length_append, h.ptxBits] at this
    omega
  · have := length_le_of_nodup_lt htx.1 htx.lt_length
    rw [inFlight_of_sending hsending, List.length_append, List.length_append, List.length_singleton, h.ptxBits] at this
    omega

/-! The order of pending transmissions (R195). -/

theorem pendingTx_of_done {s : State} (h : s.txWake = .done) : pendingTx s = s.txq :=
  congrArg (· ++ s.txq) (if_neg fun hboth => hboth.2 h)

theorem pendingTx_of_not_sending {s : State} (h : s.txs ≠ .sending) : pendingTx s = s.txq :=
  congrArg (· ++ s.txq) (if_neg fun hboth => h hboth.1)

theorem pendingTx_of_sending {s : State} (h : s.txs = .sending) (hw : s.txWake ≠ .done) : pendingTx s = s.txCur :: s.txq :=
  congrArg (· ++ s.txq) (if_pos ⟨h, hw⟩)

/-- What one step does to the frames still to be sent whole: the first is completed, or none is lost. -/
def KeepsOrder (s u : State) : Prop :=
  (u.lineOut = s.lineOut ++ [.complete] ∧ pendingTx s = s.txCur :: pendingTx u)
    ∨ (u.lineOut ≠ s.lineOut ++ [.complete] ∧ (pendingTx u = pendingTx s ∨ ∃ i, pendingTx u = pendingTx s ++ [i]))

theorem KeepsOrder.of_quiet {s u : State} (hout : u.lineOut = s.lineOut) (hpending : pendingTx u = pendingTx s) :
    KeepsOrder s u :=
  .inr ⟨by simp [hout], .inl hpending⟩

theorem KeepsOrder.of_event {s u : State} {e : LineEvent} (hout : u.lineOut = s.lineOut ++ [e]) (he : e ≠ .complete)
    (hpending : pendingTx u = pendingTx s) : KeepsOrder s u :=
  .inr ⟨by simp [hout, he], .inl hpending⟩

theorem Move.keepsOrder {a : Action} {s u : State} (h : Inv s) (hmove : Move a s u) : KeepsOrder s u := by
  cases hmove with
  | txQueued src dst p img i => exact .inr ⟨by simp, .inr ⟨i, (List.append_assoc ..).symm⟩⟩
  | txStarted k rest head idle =>
    refine .of_event rfl nofun ?_
    rw [pendingTx_of_not_sending (s := s) (by rw [idle]; decide), head]
    rfl
  | dmaByte => exact .of_event rfl nofun rfl
  | dmaCompleted active =>
    obtain ⟨hsending, hwake⟩ := h.dmaSending active
    refine .inl ⟨rfl, ?_⟩
    rw [pendingTx_of_sending hsending (by rw [hwake]; decide)]
    have hdone : postDone s.txWake = .done := by simp [postDone, hwake]
    refine congrArg _ (Eq.symm ?_)
    exact pendingTx_of_done hdone
  | aborted active =>
    obtain ⟨hsending, hwake⟩ := h.dmaSending active
    refine .of_event rfl nofun ?_
    rw [pendingTx_of_sending hsending (by rw [hwake]; decide)]
    exact pendingTx_of_sending hsending nofun
  | requeued sending collision =>
    refine .of_quiet rfl ?_
    rw [pendingTx_of_sending sending (by rw [collision]; decide)]
    rfl
  | sent sending done =>
    refine .of_quiet rfl ?_
    rw [pendingTx_of_done done]
    rfl
  | gapEnded gap =>
    refine .of_quiet rfl ?_
    rw [pendingTx_of_not_sending (s := s) (by rw [gap]; decide)]
    rfl
  | _ => exact .of_quiet rfl rfl

/-- Settles O49: each move keeps the order, and the host's fields are not in it. -/
theorem pendingTransmissionsKeepTheirOrder : Obligations.PendingTransmissionsKeepTheirOrder := by
  intro s t h hstep
  obtain ⟨a, -, u, hmove, hsame⟩ := step_steps hstep
  have horder := hmove.keepsOrder h
  obtain ⟨⟩ := hsame
  exact horder

/-! The sequencer (R194). -/

/-- Settles O50: four moves write `txs`. -/
theorem sequencerMovesOnlyByTheFourTransitions : Obligations.SequencerMovesOnlyByTheFourTransitions := by
  intro s t hstep hne
  obtain ⟨a, -, u, hmove, hsame⟩ := step_steps hstep
  obtain ⟨⟩ := hsame
  cases hmove with
  | txStarted k rest head idle cts noFall => exact .inl ⟨idle, rfl, cts, noFall, head⟩
  | sent sending done => exact .inr (.inl ⟨sending, done, rfl⟩)
  | requeued sending collision => exact .inr (.inr (.inl ⟨sending, collision, rfl, rfl⟩))
  | gapEnded gap => exact .inr (.inr (.inr ⟨gap, rfl⟩))
  | _ => exact absurd rfl hne

/-- A step out of the gap is the end of the gap. -/
theorem txs_of_gap {s t : State} (hstep : step s = .next t) (hgap : s.txs = .gap) (hnot : t.txs ≠ .idle) : t.txs = .gap := by
  by_contra hne
  rcases sequencerMovesOnlyByTheFourTransitions s t hstep (by rwa [hgap]) with
    ⟨hidle, -⟩ | ⟨hsending, -⟩ | ⟨hsending, -⟩ | ⟨-, hidle⟩
  · simp [hgap] at hidle
  · simp [hgap] at hsending
  · simp [hgap] at hsending
  · exact hnot hidle

theorem perform_txtGapEnd {s : State} (h : s.txs = .gap) :
    perform (.op .txtGapEnd) s = .next { s with txs := .idle, ret := .done } :=
  (issue_of_operation rfl rfl s).trans (exec_txtGapEnd_of_gap h)

theorem eq_of_operationOf_txtGapEnd {a : Action} (h : operationOf a = .op .txtGapEnd) : a = .op .txtGapEnd := by
  cases a with
  | op i =>
    simp only [operationOf] at h
    split at h
    · cases h
    · exact h
  | host k => cases h

/-- A gap that never ended would leave `TXT_GAP_END` enabled for ever, and weak fairness takes it. -/
theorem gap_ends {st : Nat → State} {en : Nat → Entry} {n : Nat} (hrun : InfiniteRun st en)
    (hfair : WeaklyFair (fun g => g = .txt) st en) (hgap : (st n).txs = .gap) : ∃ m, n < m ∧ (st m).txs = .idle := by
  by_contra hnever
  have hnot (m : Nat) (hm : n < m) : (st m).txs ≠ .idle := fun hidle => hnever ⟨m, hm, hidle⟩
  have hstays (m : Nat) (hm : n ≤ m) : (st m).txs = .gap := by
    induction m, hm using Nat.le_induction with
    | base => exact hgap
    | succ m hm ih => exact txs_of_gap (hrun m) ih (hnot (m + 1) (by omega))
  have henabled (m : Nat) (hm : n ≤ m) : Enabled (.op .txtGapEnd) (st m) := ⟨_, perform_txtGapEnd (hstays m hm), nofun⟩
  obtain ⟨m, hm, hop, -⟩ := hfair .txt (.op .txtGapEnd) n rfl rfl henabled
  have hact : (en m).act = .op .txtGapEnd := eq_of_operationOf_txtGapEnd hop
  have hstep : perform (en m).act (takeEntry (en m) [] { st m with sched := [en m] }) = .next (st (m + 1)) := by
    obtain ⟨-, ⟨hnil, -⟩ | ⟨e, rest, hcons, hperform⟩⟩ := step_cases (hrun m)
    · cases hnil
    · obtain ⟨rfl, rfl⟩ := List.cons.inj hcons
      exact hperform
  rw [hact] at hstep
  have hended := hstep.symm.trans (perform_txtGapEnd (s := takeEntry _ [] _) (hstays m hm))
  exact hnot (m + 1) (by omega) (by rw [Host.Outcome.next.inj hended])

/-- Settles O38: the operation's two cases, the start barred by the gap, and the fair runs. -/
theorem txtGapEndReturnsToIdle : Obligations.TxtGapEndReturnsToIdle := fun s =>
  ⟨fun hgap => ⟨exec_txtGapEnd_of_gap hgap, exec_txtStart_of_not_ready (.inl (by rw [hgap]; decide))⟩,
    exec_txtGapEnd_of_not_gap, fun _ _ _ => gap_ends⟩

/-! The configuration and the histories (R43, R45). -/

theorem Move.histories {a : Action} {s u : State} (h : Move a s u) :
    u.cfg = s.cfg ∧ s.lineOut <+: u.lineOut ∧ s.rxIn <+: u.rxIn ∧ s.cmdOut <+: u.cmdOut ∧ u.engineOut = s.engineOut := by
  cases h <;> simp

/-- Settles O51: a move only appends, and so does the host to its own history. -/
theorem configurationIsFixedAndHistoriesGrow : Obligations.ConfigurationIsFixedAndHistoriesGrow := by
  intro s t hstep
  obtain ⟨a, -, u, hmove, hsame⟩ := step_steps hstep
  obtain ⟨hcfg, hline, hrx, hcmd, hengine⟩ := hmove.histories
  obtain ⟨⟩ := hsame
  exact ⟨hcfg, hline, hrx, hcmd, hengine ▸ ‹u.engineOut <+: _›⟩

/-! Interrupt context (R330). -/

/-- What interrupt context may not touch. -/
def TaskStateKept (s t : State) : Prop :=
  t.cmdq = s.cmdq ∧ t.txq = s.txq ∧ t.txs = s.txs ∧ t.ptx = s.ptx ∧ t.cs = s.cs ∧ t.hostPend = s.hostPend
    ∧ ∀ a, slotBase s.cfg .ptx 0 ≤ a → a < rxBufBase s.cfg → Memory.read t.mem a = Memory.read s.mem a

theorem read_writeN_of_outside {m : Memory} {a b : Nat} {bs : List Byte} (h : b < a ∨ a + bs.length ≤ b) :
    Memory.read (Memory.writeN m a bs) b = Memory.read m b := by
  rw [Memory.read_writeN, if_neg (by omega)]

theorem frameEnd_taskStateKept {tag : Tag} {s t : State} (h : frameEnd tag s = .ok t) : TaskStateKept s t := by
  obtain ⟨i, bs, hi, -, -, -, hfits, rfl⟩ | ⟨i, hi, hfree, -, rfl⟩ | ⟨-, rfl⟩ := frameEnd_cases h
  · refine ⟨rfl, rfl, rfl, rfl, rfl, rfl, fun a hlow _ => read_writeN_of_outside (.inr ?_)⟩
    have := slotBase_prx_end hi
    omega
  · rw [release_claimed hi hfree]
    exact ⟨rfl, rfl, rfl, rfl, rfl, rfl, fun _ _ _ => rfl⟩
  · exact ⟨rfl, rfl, rfl, rfl, rfl, rfl, fun _ _ _ => rfl⟩

theorem execRxByte_taskStateKept {b : Byte} {s t : State} (h : execRxByte b s = .next t) : TaskStateKept s t := by
  unfold execRxByte at h
  split at h
  · obtain rfl := eq_of_finish h
    exact ⟨rfl, rfl, rfl, rfl, rfl, rfl, fun a _ hhigh => read_writeN_of_outside (bs := [b]) (.inl (by omega))⟩
  · obtain rfl := eq_of_finish h
    exact ⟨rfl, rfl, rfl, rfl, rfl, rfl, fun _ _ _ => rfl⟩

theorem execRxIdle_taskStateKept {s t : State} (h : execRxIdle s = .next t) : TaskStateKept s t := by
  unfold execRxIdle at h
  split at h
  · obtain ⟨u, hend, hfinish⟩ := orFault_next h
    obtain rfl := eq_of_finish hfinish
    have hkept := frameEnd_taskStateKept hend
    exact hkept
  · obtain rfl := eq_of_finish h
    exact ⟨rfl, rfl, rfl, rfl, rfl, rfl, fun _ _ _ => rfl⟩

theorem execDmaComplete_taskStateKept {s t : State} (h : execDmaComplete s = .next t) : TaskStateKept s t := by
  unfold execDmaComplete at h
  split at h
  · split at h
    · cases h
    · split at h <;>
        · obtain rfl := eq_of_finish h
          exact ⟨rfl, rfl, rfl, rfl, rfl, rfl, fun _ _ _ => rfl⟩
  · obtain rfl := eq_of_finish h
    exact ⟨rfl, rfl, rfl, rfl, rfl, rfl, fun _ _ _ => rfl⟩

theorem execArbStep_taskStateKept {s t : State} (h : execArbStep s = .next t) : TaskStateKept s t := by
  unfold execArbStep at h
  split at h
  · split at h <;>
      · obtain rfl := eq_of_finish h
        exact ⟨rfl, rfl, rfl, rfl, rfl, rfl, fun _ _ _ => rfl⟩
  · obtain rfl := eq_of_finish h
    exact ⟨rfl, rfl, rfl, rfl, rfl, rfl, fun _ _ _ => rfl⟩

/-- Settles O52: the receiver writes its own slots and `rx_buf`, the DMA engine and the arbiter the transfer's registers. -/
theorem interruptContextLeavesTaskStateAlone : Obligations.InterruptContextLeavesTaskStateAlone := by
  rintro i s t (⟨b, rfl⟩ | rfl | rfl | ⟨tag, rfl⟩ | rfl | rfl) h
  · exact execRxByte_taskStateKept h
  · obtain ⟨u, hend, hfinish⟩ := orFault_next h
    obtain rfl := eq_of_finish hfinish
    have hkept := frameEnd_taskStateKept hend
    exact hkept
  · exact execRxIdle_taskStateKept h
  · obtain ⟨u, hend, hfinish⟩ := orFault_next h
    obtain rfl := eq_of_finish hfinish
    have hkept := frameEnd_taskStateKept hend
    exact hkept
  · exact execDmaComplete_taskStateKept h
  · exact execArbStep_taskStateKept h

/-! A slot waiting to be sent (R362, R75). -/

/-- No move writes a byte or the length of a slot that is in flight or queued. -/
theorem Move.txSlot_kept {a : Action} {s u : State} (h : Inv s) (hmove : Move a s u) {i k : Nat}
    (hi : i ∈ inFlight s ++ s.txq) (hk : k < s.cfg.slotBytes) :
    Memory.read u.mem (slotBase s.cfg .ptx i + k) = Memory.read s.mem (slotBase s.cfg .ptx i + k)
      ∧ u.ptx.len[i]? = s.ptx.len[i]? := by
  have hend := slotBase_ptx_end (h.lt_of_tx hi)
  have hstart := slotBase_ptx_zero_le s.cfg i
  cases hmove with
  | rxStore b => exact ⟨read_writeN_of_outside (bs := [b]) (.inl (by omega)), rfl⟩
  | frameQueued tag j bs ev inPool free room bytes fits =>
    have := slotBase_prx_end inPool
    exact ⟨read_writeN_of_outside (.inr (by omega)), rfl⟩
  | txQueued src dst p img j image room inPool free fits =>
    have hij : i ≠ j := fun heq => h.tracks_ptx.not_mem_of_free free (List.mem_append_left _ (heq ▸ hi))
    have := slotBase_ptx_disjoint s.cfg hij
    exact ⟨read_writeN_of_outside (by omega), List.getElem?_set_ne hij.symm⟩
  | alloc p j => cases p <;> exact ⟨rfl, rfl⟩
  | poolFree p j => cases p <;> exact ⟨rfl, rfl⟩
  | _ => exact ⟨rfl, rfl⟩

/-- Settles O53: a step's move keeps the slot. -/
theorem queuedTransmitSlotsAreNeverWritten : Obligations.QueuedTransmitSlotsAreNeverWritten := by
  intro s t i k h hstep hi hk
  obtain ⟨a, -, u, hmove, hsame⟩ := step_steps hstep
  have hkept := hmove.txSlot_kept h hi hk
  obtain ⟨⟩ := hsame
  exact hkept

end Sys2Proof.Machine

/-! ### PROOFS. The host agent (spec/45_host_changer_fsm.md): the commands it takes, its announcements, the sensor and the reports left
to be sent -/

namespace Sys2Proof.Machine

theorem hostReady_iff (s : State) : hostReady s = true ↔ s.booted = true ∧ s.hostPend = [] := by
  simp [hostReady]

/-! Taking a command (R284, R285). -/

/-- The state change of a command: the first connects, and `Stop`, `Pause`, `Play` set the play and audio state. -/
theorem dispatchState_connect (c : Cfg) (cs : ChangerState) (k : TypedCommand) : dispatchState c (connect cs) k = { cs with
    lifecycle := .connected
    play := if k = .stop then .stopped else if k = .pause then .paused else if k = .play then .playing else cs.play
    audioState := if k = .stop then c.audioStopped else if k = .pause then c.audioPaused
      else if k = .play then c.audioPlaying else cs.audioState } := by
  cases k <;> rfl

theorem hostCmd_of_ready {s : State} {c : TypedCommand} {rest : List TypedCommand} (booted : s.booted = true)
    (idle : s.hostPend = []) (head : s.cmdq = c :: rest) :
    hostExec .cmd s = .next { s with
      cmdq := rest
      cmdOut := s.cmdOut ++ [c]
      cs := dispatchState s.cfg (connect s.cs) c
      engineOut := s.engineOut ++ dispatchForward c
      hostPend := dispatchEmit (dispatchState s.cfg (connect s.cs) c) c
      ret := .done } := by
  change hostCmd s = _
  simp only [hostCmd, if_pos ((hostReady_iff s).mpr ⟨booted, idle⟩), head, finish]

/-- A command of no row of its own is answered by the mirror of the host's state. -/
theorem dispatchEmit_of_mirrored {k : TypedCommand} (cs : ChangerState) (htraffic : k ≠ .traffic) (hpoll : k ≠ .poll)
    (hfast : ∀ d, k ≠ .fastPlay d) : dispatchEmit cs k = [.send (mirrorVariant cs)] := by
  cases k with
  | traffic => exact absurd rfl htraffic
  | poll => exact absurd rfl hpoll
  | fastPlay d => exact absurd rfl (hfast d)
  | _ => rfl

theorem mirrorVariant_cases (cs : ChangerState) :
    (cs.play = .stopped ∧ mirrorVariant cs = .stopped) ∨ (cs.play = .paused ∧ mirrorVariant cs = .paused)
      ∨ (cs.play = .playing ∧ mirrorVariant cs = .playing) := by
  unfold mirrorVariant
  cases cs.play <;> simp

/-- Settles O57: the rows of R285, read off the command. -/
theorem hostCommandUpdatesForwardsAndReports : Obligations.HostCommandUpdatesForwardsAndReports := by
  intro s c rest booted idle head
  refine ⟨_, hostCmd_of_ready booted idle head, rfl, rfl, lifecycle_dispatchState _ _ c, dispatchState_connect _ _ c, ?traffic,
    ?poll, ?fastPlay, ?mirror, ?stop, ?pause, ?play, ?changeDisc, ?seek, ?scanDisc, ?randomize, ?silent⟩
  case mirror =>
    exact fun htraffic hpoll hfast => ⟨_, dispatchEmit_of_mirrored _ htraffic hpoll hfast, mirrorVariant_cases _⟩
  case seek => rintro d rfl; cases d <;> rfl
  case silent =>
    rintro (rfl | rfl | rfl | ⟨d, rfl⟩)
    all_goals exact List.append_nil _
  case traffic | poll | stop | pause | play => rintro rfl; rfl
  case fastPlay | changeDisc | scanDisc | randomize => rintro x rfl; rfl

/-! The host's sends. -/

theorem hostSend_of_canQueue {s : State} (h : s.cfg.wf = true) (hcan : CanQueue s) (st : TypedStatus) (k : State → State) :
    ∃ u, sendStatus st s = .next u ∧ u.ret = .queued ∧ hostSend st s k = .next (k u) := by
  obtain ⟨i, m, -, -, hsend, -⟩ := sendStatus_of_canQueue h hcan st
  refine ⟨_, hsend, rfl, ?_⟩
  simp only [hostSend, hsend]
  exact if_neg nofun

theorem hostSend_of_not_canQueue {s : State} (h : s.cfg.wf = true) (hcannot : ¬ CanQueue s) (st : TypedStatus)
    (k : State → State) : Holds s (hostSend st s k) := by
  have hsend : sendStatus st s = .next { s with ret := .held } := sendStatus_of_not_canQueue h hcannot st
  simp only [Holds, hostSend, hsend, if_true]

/-! The announcements (R283, R284). -/

theorem hostBoot_of_not_booted {s : State} (h : s.booted = false) :
    hostExec .boot s = hostSend ⟨.announce, commonOf s.cs⟩ s fun t => { t with announces := 1, booted := true } :=
  if_neg (Bool.eq_false_iff.mp h)

theorem hostBoot_of_booted {s : State} (h : s.booted = true) : Holds s (hostExec .boot s) := if_pos h

/-- The guard of `HOST_ANNOUNCE_TICK`. -/
def TickReady (s : State) : Prop :=
  s.booted = true ∧ s.hostPend = [] ∧ s.cs.lifecycle = .notConnected ∧ s.cmdq = [] ∧ budgetLeft s = true

theorem hostAnnounceTick_guard (s : State) :
    (hostReady s && decide (s.cs.lifecycle = .notConnected) && s.cmdq.isEmpty && budgetLeft s) = true ↔ TickReady s := by
  simp only [TickReady, Bool.and_eq_true, hostReady_iff, decide_eq_true_eq, List.isEmpty_iff, and_assoc]

theorem hostAnnounceTick_of_ready {s : State} (h : TickReady s) : hostExec .announceTick s =
    hostSend ⟨.announce, commonOf s.cs⟩ s fun t => { t with announces := s.announces + 1 } :=
  if_pos ((hostAnnounceTick_guard s).mpr h)

theorem hostAnnounceTick_of_not_ready {s : State} (h : ¬ TickReady s) : Holds s (hostExec .announceTick s) :=
  if_neg (h ∘ (hostAnnounceTick_guard s).mp)

theorem budgetLeft_iff (s : State) : budgetLeft s = true ↔
    s.cfg.announceBudget = none ∨ ∃ n, s.cfg.announceBudget = some n ∧ s.announces < n := by
  unfold budgetLeft
  cases s.cfg.announceBudget <;> simp

theorem lifecycle_of_hostCmd {s t : State} (h : hostExec .cmd s = .next t) (hdone : t.ret = .done) :
    t.cs.lifecycle = .connected := by
  change hostCmd s = _ at h
  unfold hostCmd at h
  split at h
  · split at h
    · obtain rfl := eq_of_finish h
      cases hdone
    · rename_i c rest _
      obtain rfl := eq_of_finish h
      exact lifecycle_dispatchState _ _ c
  · obtain rfl := eq_of_finish h
    cases hdone

theorem Move.cs_eq {a : Action} {s u : State} (h : Move a s u) : u.cs = s.cs := by
  cases h <;> rfl

theorem lifecycle_of_step {s t : State} (hstep : step s = .next t) (h : s.cs.lifecycle = .connected) :
    t.cs.lifecycle = .connected := by
  obtain ⟨a, -, u, hmove, hsame⟩ := step_steps hstep
  rw [← hmove.cs_eq] at h
  obtain ⟨⟩ := hsame
  exact ‹u.cs.lifecycle = .connected → _› h

/-- Settles O58: connected once, connected for ever; before that the two announcing steps, under their guards. -/
theorem connectionIsForEver : Obligations.ConnectionIsForEver := by
  intro s t
  refine ⟨lifecycle_of_step, lifecycle_of_hostCmd, fun hconnected => ?_, fun hwf => ⟨fun hboot hcan => ?boot, ?booted,
    fun hbooted hidle hlife hcmdq hbudget hcan => ?tick, ?spent⟩⟩
  · refine hostAnnounceTick_of_not_ready fun ⟨_, _, hnot, _⟩ => ?_
    simp [hconnected] at hnot
  case boot =>
    rw [hostBoot_of_not_booted hboot]
    exact hostSend_of_canQueue hwf hcan _ _
  case booted =>
    intro h
    cases hbooted : s.booted with
    | true => exact hostBoot_of_booted hbooted
    | false =>
      rw [hostBoot_of_not_booted hbooted]
      exact hostSend_of_not_canQueue hwf (h.resolve_left (by simp [hbooted])) _ _
  case tick =>
    rw [hostAnnounceTick_of_ready ⟨hbooted, hidle, hlife, hcmdq, (budgetLeft_iff s).mpr hbudget⟩]
    exact hostSend_of_canQueue hwf hcan _ _
  case spent =>
    intro h
    by_cases hready : TickReady s
    · obtain ⟨-, -, -, hempty, hleft⟩ := id hready
      have hcannot : ¬ CanQueue s := by
        refine (h.resolve_left (not_not_intro hempty)).resolve_left ?_
        rintro ⟨n, hn, hspent⟩
        obtain hnone | ⟨m, hm, hlt⟩ := (budgetLeft_iff s).mp hleft
        · simp [hn] at hnone
        · obtain rfl : n = m := Option.some.inj (hn.symm.trans hm)
          omega
      rw [hostAnnounceTick_of_ready hready]
      exact hostSend_of_not_canQueue hwf hcannot _ _
    · exact hostAnnounceTick_of_not_ready hready

/-! The sensor (R290 to R293). -/

theorem and_magBit_ne_zero (b : Byte) : b &&& magBit ≠ 0 ↔ b.getLsbD 7 = true := by
  revert b
  decide

theorem classifySensor_of_empty {b : Byte} (h : b = 0 ∨ (b.getLsbD 7 = true ∧ b &&& 0x3F = 0)) :
    classifySensor b = if b = 0 then .noMagazine else .noDiscs := by
  unfold classifySensor
  by_cases hzero : b = 0
  · rw [if_pos hzero, if_pos hzero]
  · obtain ⟨hmag, hdiscs⟩ := h.resolve_left hzero
    rw [if_neg hzero, if_neg hzero, if_pos ⟨(and_magBit_ne_zero b).mpr hmag, hdiscs⟩]

theorem classifySensor_of_discs {b : Byte} (h : ¬ (b = 0 ∨ (b.getLsbD 7 = true ∧ b &&& 0x3F = 0))) :
    classifySensor b = .enumerating := by
  obtain ⟨hzero, hdiscs⟩ := not_or.mp h
  unfold classifySensor
  rw [if_neg hzero]
  exact if_neg fun ⟨hmag, hnone⟩ => hdiscs ⟨(and_magBit_ne_zero b).mp hmag, hnone⟩

theorem hostSensor_of_empty {s : State} {b : Byte} (booted : s.booted = true) (idle : s.hostPend = [])
    (h : classifySensor b ≠ .enumerating) :
    hostExec (.sensor b) s = .next { s with
      cs := emptyMagazine s.cfg (classifySensor b) b s.cs
      engineOut := s.engineOut ++ [.stop]
      hostPend := [.send .stopped]
      ret := .done } := by
  change hostSensor b s = _
  unfold hostSensor
  rw [if_pos ((hostReady_iff s).mpr ⟨booted, idle⟩)]
  cases hclass : classifySensor b with
  | enumerating => exact absurd hclass h
  | noMagazine | noDiscs | discsPresent => rfl

theorem hostSensor_of_enumerating {s : State} {b : Byte} (booted : s.booted = true) (idle : s.hostPend = [])
    (h : classifySensor b = .enumerating) :
    hostExec (.sensor b) s = .next { s with
      cs := { s.cs with disc := .enumerating }, hostPend := enumerationActions b, ret := .done } := by
  change hostSensor b s = _
  simp only [hostSensor, if_pos ((hostReady_iff s).mpr ⟨booted, idle⟩), h, finish]

/-- The bits below position `n` are the remainder by `2 ^ n`. -/
theorem lowMask_and (n : Nat) (hn : n ≤ 8) (b : Byte) :
    BitVec.ofNat 8 ((1 <<< n) - 1) &&& b = BitVec.ofNat 8 (b.toNat % 2 ^ n) := by
  apply BitVec.eq_of_toNat_eq
  have hpow : 2 ^ n ≤ 2 ^ 8 := Nat.pow_le_pow_right (by omega) hn
  have hmask : (2 ^ n - 1) % 2 ^ 8 = 2 ^ n - 1 :=
    Nat.mod_eq_of_lt (Nat.lt_of_lt_of_le (Nat.sub_lt (Nat.two_pow_pos n) Nat.one_pos) hpow)
  have hrem : b.toNat % 2 ^ n % 2 ^ 8 = b.toNat % 2 ^ n :=
    Nat.mod_eq_of_lt (Nat.lt_of_lt_of_le (Nat.mod_lt _ (Nat.two_pow_pos n)) hpow)
  rw [BitVec.toNat_and, BitVec.toNat_ofNat, BitVec.toNat_ofNat, Nat.one_shiftLeft, hmask, hrem, Nat.and_comm,
    Nat.and_two_pow_sub_one_eq_mod]

/-- A disc's bit is clear in the bitmask exactly when the probe reports a failure. -/
theorem probe_failed (d : Disc) (b : Byte) : decide (discBit d &&& b = 0) = !b.getLsbD (d.toNat - 1) := by
  revert b
  cases d <;> decide

theorem probeActions_eq (b : Byte) (d : Disc) : probeActions b d =
    [.send (.checkingForDisc (BitVec.ofNat 8 (b.toNat % 2 ^ (d.toNat - 1))) d false),
     .send (.checkingForDisc (BitVec.ofNat 8 (b.toNat % 2 ^ d.toNat)) d (!b.getLsbD (d.toNat - 1)))] := by
  have hd : d.toNat ≤ 6 := by cases d <;> decide
  rw [probeActions, beforeMask, cumulativeMask, lowMask_and _ (by omega), lowMask_and _ (by omega), probe_failed]

theorem enumerationActions_eq (b : Byte) : enumerationActions b =
    (Disc.all.map fun d =>
      [HostAction.send (.checkingForDisc (BitVec.ofNat 8 (b.toNat % 2 ^ (d.toNat - 1))) d false),
       HostAction.send (.checkingForDisc (BitVec.ofNat 8 (b.toNat % 2 ^ d.toNat)) d (!b.getLsbD (d.toNat - 1)))]).flatten
    ++ [.finishEnumeration b, .send .stopped] := by
  rw [enumerationActions, List.flatMap_def, funext (probeActions_eq b)]

/-- Settles O59: the two classes of bitmask. -/
theorem sensorClassifiesAndEnumerates : Obligations.SensorClassifiesAndEnumerates := by
  intro s b booted idle
  constructor
  · intro hempty
    have hclass := classifySensor_of_empty hempty
    have hnot : classifySensor b ≠ .enumerating := by
      rw [hclass]
      split <;> decide
    exact ⟨_, hostSensor_of_empty booted idle hnot, rfl, rfl, rfl, rfl, rfl, rfl, hclass, rfl⟩
  · intro hdiscs
    exact ⟨_, hostSensor_of_enumerating booted idle (classifySensor_of_discs hdiscs), rfl, rfl, enumerationActions_eq b⟩

/-! What is left to be sent (R282, R292, R294). -/

theorem hostResume_of_nil {s : State} (h : s.hostPend = []) : Holds s (hostExec .resume s) := by
  change hostResume s = _
  simp only [hostResume, h, hold, finish]

theorem hostResume_of_finishEnumeration {s : State} {b : Byte} {rest : List HostAction}
    (h : s.hostPend = .finishEnumeration b :: rest) :
    hostExec .resume s = .next { s with cs := enumerated b s.cs, hostPend := rest, ret := .done } := by
  change hostResume s = _
  simp only [hostResume, h, finish]

/-- A report left to be sent is a host's send, of the given status or of the variant with the present common fields. -/
theorem hostResume_of_report {s : State} {st : TypedStatus} {rest : List HostAction}
    (h : s.hostPend = .sendExact st :: rest ∨ (s.hostPend = .send st.variant :: rest ∧ st.common = commonOf s.cs)) :
    hostExec .resume s = hostSend st s fun t => { t with hostPend := rest } := by
  change hostResume s = _
  obtain hexact | ⟨hsend, hcommon⟩ := h
  · simp only [hostResume, hexact]
  · have hst : (⟨st.variant, commonOf s.cs⟩ : TypedStatus) = st := by rw [← hcommon]
    simp only [hostResume, hsend, hst]

/-- Settles O60: by the first action left. -/
theorem enumerationEndsAtDiscTwoTrackOne : Obligations.EnumerationEndsAtDiscTwoTrackOne := by
  intro s b rest
  refine ⟨hostResume_of_finishEnumeration, fun st hwf hreport => ⟨fun hcan => ?_, fun hcannot => ?_⟩, hostResume_of_nil⟩
  · rw [hostResume_of_report hreport]
    exact hostSend_of_canQueue hwf hcan st _
  · rw [hostResume_of_report hreport]
    exact hostSend_of_not_canQueue hwf hcannot st _

end Sys2Proof.Machine

/-! ### PROOFS. Written-out runs: a whole transmission, a collision, and a message from the line to the host (R198, R195, R150) -/

namespace Sys2Proof.Machine

/-- One scheduled operation of a run. -/
theorem run_op {s t : State} {k n : Nat} {i : Instr} {rest : List Entry} (h : s.cfg.wf = true)
    (hsched : s.sched = ⟨k, .op i⟩ :: rest) (hop : isInbound i = false) (hevent : isSubStep i = false)
    (hexec : exec i { s with sched := rest, pick := k } = .next t) : Sys2Proof.core.run (n + 1) s = Sys2Proof.core.run n t := by
  have hstep : Sys2Proof.core.step s = .next t :=
    (step_cons h hsched).trans ((issue_of_operation hop hevent _).trans hexec)
  simp only [Host.Core.run, hstep]

/-- The bytes of a run from index `i` on, the first of them apart. -/
theorem take_drop_succ {f : List Byte} {i : Nat} (hi : i < f.length) (m : Nat) :
    (f.drop i).take (m + 1) = f[i] :: (f.drop (i + 1)).take m := by
  rw [List.drop_eq_getElem_cons hi, List.take_succ_cons]

/-- `m` operations `DMA_BYTE` of an active transfer put the next `m` bytes of its slot on the line. -/
theorem run_dmaBytes {k n r : Nat} {f : List Byte} {more : List Entry} (m : Nat) :
    ∀ s : State, s.cfg.wf = true → s.dmaActive = true → s.ptx.len[s.txCur]? = some n → s.txCur < s.cfg.nTx →
      n ≤ s.cfg.slotBytes → Memory.readN s.mem (slotBase s.cfg .ptx s.txCur) n = some f → s.dmaIdx + m ≤ n →
      s.sched = entries k (List.replicate m .dmaByte) ++ more →
      ∃ p v, Sys2Proof.core.run (m + r) s = Sys2Proof.core.run r { s with
        sched := more, pick := p, ret := v, dmaIdx := s.dmaIdx + m
        lineOut := s.lineOut ++ ((f.drop s.dmaIdx).take m).map .byte } := by
  induction m with
  | zero =>
    intro s _ _ _ _ _ _ _ hsched
    have hsched : s.sched = more := hsched
    exact ⟨s.pick, s.ret, by simp [← hsched]⟩
  | succ m ih =>
    intro s hwf hactive hlen hpool hfits hread hleft hsched
    obtain ⟨hflen, hbytes⟩ := (Memory.readN_eq_some _ _ _ _).mp hread
    have hidx : s.dmaIdx < f.length := by omega
    have hbyte : Memory.read s.mem (slotBase s.cfg .ptx s.txCur + s.dmaIdx) = some f[s.dmaIdx] := by
      rw [hbytes s.dmaIdx (by omega), List.getElem?_eq_getElem hidx]
    have hexec := exec_dmaByte_of_left
      (s := { s with sched := entries k (List.replicate m .dmaByte) ++ more, pick := k }) hactive hlen
      (show s.dmaIdx < n by omega) hpool hfits hbyte
    obtain ⟨p, v, hrun⟩ := ih
      { s with
        sched := entries k (List.replicate m .dmaByte) ++ more, pick := k, lineOut := s.lineOut ++ [.byte f[s.dmaIdx]]
        dmaIdx := s.dmaIdx + 1, ret := .done }
      hwf hactive hlen hpool hfits hread (show s.dmaIdx + 1 + m ≤ n by omega) rfl
    refine ⟨p, v, ?_⟩
    rw [Nat.add_right_comm, run_op hwf hsched rfl rfl hexec, hrun, take_drop_succ hidx]
    simp only [List.map_cons, List.append_assoc, List.singleton_append, Nat.add_assoc, Nat.add_comm 1 m]

/-- A transfer begun and `m` of its bytes sent: the head frame is in flight, and the line has seen its first `m` bytes. -/
theorem run_transfer {s : State} {k h n m r : Nat} {rest : List Nat} {f : List Byte} {more : List Entry} (hinv : Inv s)
    (idle : s.txs = .idle) (cts : s.cts = true) (noFall : s.ctsFallPend = false) (head : s.txq = h :: rest)
    (len : s.ptx.len[h]? = some n) (hm : m ≤ n) (read : Memory.readN s.mem (slotBase s.cfg .ptx h) n = some f)
    (hsched : s.sched = entries k (.txtStart :: List.replicate m .dmaByte) ++ more) :
    ∃ p v, Sys2Proof.core.run (m + 1 + r) s = Sys2Proof.core.run r { s with
      sched := more, pick := p, ret := v, txCur := h, txq := rest, dmaIdx := m, dmaActive := true, txWake := .none
      txs := .sending, lineOut := s.lineOut ++ [.start h] ++ (f.take m).map .byte } := by
  have hmem : h ∈ inFlight s ++ s.txq := by simp [head]
  obtain ⟨-, -, -, -, -, hslot, -⟩ := sizes_of_wf hinv.cfgOk
  have hfits : n ≤ s.cfg.slotBytes := by
    obtain ⟨n', hlen', hn', -⟩ := hinv.txWritten h hmem
    obtain rfl : n = n' := Option.some.inj (len.symm.trans hlen')
    rw [Cfg.maxFrameTx, maxPayloadTx_of_wf hinv.cfgOk] at hn'
    omega
  have hstart := exec_txtStart_of_ready
    (s := { s with sched := entries k (List.replicate m .dmaByte) ++ more, pick := k }) idle head cts noFall
  obtain ⟨p, v, hrun⟩ := run_dmaBytes (r := r) m
    { s with
      sched := entries k (List.replicate m .dmaByte) ++ more, pick := k, txCur := h, txq := rest, dmaIdx := 0
      dmaActive := true, txWake := .none, txs := .sending, lineOut := s.lineOut ++ [.start h], ret := .done }
    hinv.cfgOk rfl len (hinv.lt_of_tx hmem) hfits read (show 0 + m ≤ n by omega) rfl
  refine ⟨p, v, ?_⟩
  rw [Nat.add_right_comm, run_op hinv.cfgOk hsched rfl rfl hstart, hrun]
  simp only [List.drop_zero, Nat.zero_add]

/-- A transfer with every byte sent completes: its slot is freed and the sequencer is idle again after the gap. -/
theorem run_completion {s : State} {k : Nat} {more : List Entry} (hwf : s.cfg.wf = true) (active : s.dmaActive = true)
    (sending : s.txs = .sending) (noWake : s.txWake = .none) (len : s.ptx.len[s.txCur]? = some s.dmaIdx)
    (inPool : s.txCur < s.cfg.nTx) (hsched : s.sched = entries k [.dmaComplete, .txtWakeDone, .txtGapEnd] ++ more) :
    Sys2Proof.core.run 3 s = .next { s with
      sched := more, pick := k, ptx := { s.ptx with inUse := s.ptx.inUse.set s.txCur false }, txs := .idle
      txWake := .none, dmaActive := false, lineOut := s.lineOut ++ [.complete], ret := .done } := by
  have hdone : (if s.txWake = .none then Wake.done else s.txWake) = .done := if_pos noWake
  refine Eq.trans (run_op hwf hsched rfl rfl (exec_dmaComplete_of_all active len)) ?_
  refine Eq.trans (run_op hwf rfl rfl rfl (exec_txtWakeDone_of_done sending hdone inPool)) ?_
  exact run_op (n := 0) hwf rfl rfl rfl (exec_txtGapEnd_of_gap rfl)

/-- Settles O54: the transfer of all its bytes, its completion, the wake and the gap. -/
theorem uninterruptedTransferSendsTheWholeFrame : Obligations.UninterruptedTransferSendsTheWholeFrame := by
  intro s k h n rest f more hinv idle cts noFall head len read hsched
  have hpool : h < s.cfg.nTx := hinv.lt_of_tx (by simp [head])
  have hwhole : f.take n = f := List.take_of_length_le ((Memory.readN_eq_some _ _ _ _).mp read).1.le
  have hsched : s.sched = entries k (.txtStart :: List.replicate n .dmaByte)
      ++ (entries k [.dmaComplete, .txtWakeDone, .txtGapEnd] ++ more) := by
    rw [hsched, ← List.append_assoc]
    simp [entries]
  obtain ⟨p, v, hrun⟩ := run_transfer (r := 3) hinv idle cts noFall head len le_rfl read hsched
  rw [hwhole] at hrun
  exact ⟨_, hrun.trans (run_completion hinv.cfgOk rfl rfl rfl len hpool rfl), rfl, rfl, rfl, rfl, rfl, rfl⟩

/-- An active transfer that a collision meets is aborted, and its frame is pending again, before the others. -/
theorem run_collision {s : State} {k : Nat} {more : List Entry} (hwf : s.cfg.wf = true) (active : s.dmaActive = true)
    (sending : s.txs = .sending) (cts : s.cts = true) (room : s.txq.length < s.cfg.txqCap)
    (hsched : s.sched = entries k [.ctsFall, .arbStep, .txtWakeColl, .ctsRise] ++ more) :
    Sys2Proof.core.run 4 s = .next { s with
      sched := more, pick := k, txq := s.txCur :: s.txq, txs := .idle, txWake := .none, dmaActive := false, cts := true
      ctsFallPend := false, lineOut := s.lineOut ++ [.abort s.dmaIdx], rxIn := s.rxIn ++ [.ctsFall] ++ [.ctsRise]
      ret := .done } := by
  have hpend : (if s.dmaActive = true then true else s.ctsFallPend) = true := if_pos active
  refine Eq.trans (run_op hwf hsched rfl rfl (exec_ctsFall_of_cts cts)) ?_
  refine Eq.trans (run_op hwf rfl rfl rfl (exec_arbStep_of_active hpend active)) ?_
  refine Eq.trans (run_op hwf rfl rfl rfl (exec_txtWakeColl_of_room sending rfl room)) ?_
  exact run_op (n := 0) hwf rfl rfl rfl (exec_ctsRise_of_not_cts rfl)

/-- Settles O55: the transfer of the first `j` bytes, the fall of CTS, the arbiter's abort, the wake, and CTS back. -/
theorem collisionPutsTheFrameBackInFront : Obligations.CollisionPutsTheFrameBackInFront := by
  intro s k h n j rest f more hinv idle cts noFall head len hj read hsched
  have hroom : rest.length < s.cfg.txqCap := by
    have := hinv.txqFits
    rwa [head] at this
  have hsched : s.sched = entries k (.txtStart :: List.replicate j .dmaByte)
      ++ (entries k [.ctsFall, .arbStep, .txtWakeColl, .ctsRise] ++ more) := by
    rw [hsched, ← List.append_assoc]
    simp [entries]
  obtain ⟨p, v, hrun⟩ := run_transfer (r := 4) hinv idle cts noFall head len hj read hsched
  exact ⟨_, hrun.trans (run_collision hinv.cfgOk rfl rfl cts hroom rfl), head.symm, rfl, rfl, rfl, rfl, rfl, rfl, rfl, rfl⟩

/-- Bytes received with room for all of them are stored one after another in the scratch buffer. -/
theorem run_rxBytes {k r : Nat} {more : List Entry} (bs : List Byte) :
    ∀ s : State, s.cfg.wf = true → s.rxCnt + bs.length ≤ s.cfg.rxCap → s.sched = entries k (bs.map .rxByte) ++ more →
      ∃ p v, Sys2Proof.core.run (bs.length + r) s = Sys2Proof.core.run r { s with
        sched := more, pick := p, ret := v, mem := Memory.writeN s.mem (rxBufBase s.cfg + s.rxCnt) bs
        rxCnt := s.rxCnt + bs.length, rxIn := s.rxIn ++ bs.map .rxByte } := by
  induction bs with
  | nil =>
    intro s _ _ hsched
    have hsched : s.sched = more := hsched
    exact ⟨s.pick, s.ret, by simp [← hsched, Memory.writeN]⟩
  | cons b bs ih =>
    intro s hwf hroom hsched
    rw [List.length_cons] at hroom
    have hexec := exec_rxByte_of_room (s := { s with sched := entries k (bs.map .rxByte) ++ more, pick := k }) b
      (show s.rxCnt < s.cfg.rxCap by omega)
    obtain ⟨p, v, hrun⟩ := ih
      { s with
        sched := entries k (bs.map .rxByte) ++ more, pick := k, mem := Memory.writeN s.mem (rxBufBase s.cfg + s.rxCnt) [b]
        rxCnt := s.rxCnt + 1, rxIn := s.rxIn ++ [.rxByte b], ret := .done }
      hwf (show s.rxCnt + 1 + bs.length ≤ s.cfg.rxCap by omega) rfl
    refine ⟨p, v, ?_⟩
    rw [List.length_cons, Nat.add_right_comm, run_op hwf hsched rfl rfl hexec, hrun]
    simp only [List.map_cons, List.append_assoc, List.singleton_append, Nat.add_assoc, Nat.add_comm 1 bs.length, Memory.writeN]

/-- What the RX task finds in the slot a run tagged `Ok` has been put into. -/
theorem runResult_runQueued {s : State} {i : Nat} {f : List Byte} (inPool : i < s.cfg.nRx) (lens : s.prx.len.length = s.cfg.nRx)
    (tags : s.prxTag.length = s.cfg.nRx) (count : s.rxCnt = f.length) (fits : f.length ≤ s.cfg.slotBytes) :
    runResult (runQueued .ok i f s) i = .ok (cmdDecode s.cfg f) := by
  have htag : (s.prxTag.set i .ok)[i]? = some .ok := List.getElem?_set_self (by omega)
  have hlen : (s.prx.len.set i s.rxCnt)[i]? = some f.length := count ▸ List.getElem?_set_self (by omega)
  exact runResult_of_ok htag (runBytes_of_read inPool hlen fits (Memory.readN_writeN_self _ _ f))

/-- A whole run in the scratch buffer, then idle, then the RX task: the run's command is delivered and its slot is free again. -/
theorem run_accumulated {s : State} {k : Nat} {f : List Byte} {more : List Entry} (hwf : s.cfg.wf = true)
    (lens : s.prx.len.length = s.cfg.nRx) (tags : s.prxTag.length = s.cfg.nRx) (count : s.rxCnt = f.length)
    (nonempty : 0 < f.length) (fits : f.length ≤ s.cfg.rxCap) (tag : s.rxTag = .ok) (queue : s.rxq = [])
    (room : s.cmdq.length < s.cfg.cmdqCap) (read : Memory.readN s.mem (rxBufBase s.cfg) f.length = some f)
    (free : ∃ j, j < s.cfg.nRx ∧ s.prx.inUse[j]? = some false) (hsched : s.sched = entries k [.rxIdle, .rxtStep] ++ more) :
    ∃ t, Sys2Proof.core.run 2 s = .next t ∧ t.cmdq = s.cmdq ++ (cmdDecodeSpec s.cfg f).toList ∧ t.rxq = [] ∧ t.rxCnt = 0
      ∧ t.rxTag = .ok ∧ t.prx.inUse = s.prx.inUse ∧ t.sched = more ∧ t.rxIn = s.rxIn ++ [.rxIdle] := by
  obtain ⟨-, -, hrxq, -, -, -, -, hslot⟩ := sizes_of_wf hwf
  have hroom : s.rxq.length < s.cfg.rxqCap := queue ▸ hrxq
  have hcount : s.rxCnt ≤ s.cfg.rxCap := count ▸ fits
  have hread : Memory.readN s.mem (rxBufBase s.cfg) s.rxCnt = some f := count ▸ read
  have hbusy : 0 < s.rxCnt ∨ s.rxTag ≠ .ok := .inl (count ▸ nonempty)
  obtain ⟨i, inPool, hfree, hchoose⟩ :=
    exists_choose (s := { s with sched := entries k [.rxtStep] ++ more, pick := k }) (p := .prx) free
  have hend := frameEnd_of_choose (s := { s with sched := entries k [.rxtStep] ++ more, pick := k }) s.rxTag hchoose hroom hcount
    hslot hread
  have hidle := run_op (n := 1) hwf hsched rfl rfl (exec_rxIdle_of_busy hbusy hend)
  have hresult := runResult_runQueued inPool lens tags count (fits.trans hslot)
  rw [tag, queue] at hidle
  rw [cmdDecode_eq_cmdDecodeSpec hwf] at hresult
  exact ⟨_, Eq.trans hidle (run_op (n := 0) hwf rfl rfl rfl (exec_rxtStep_of_room rfl hresult inPool (.inr room))),
    rfl, rfl, rfl, rfl, set_true_set_false hfree, rfl, rfl⟩

/-- Settles O56: the bytes accumulate in the scratch buffer; the idle line queues them and the RX task delivers their command. -/
theorem receivedMessageReachesTheHost : Obligations.ReceivedMessageReachesTheHost := by
  intro s k i f more hinv count tag queue free room inbound wellFormed image fits hsched
  have hvalid := (decode_ok (decodeOfEncodedMessageIsTheMessage s.cfg i f hinv.cfgOk inbound wellFormed image)).1
  obtain ⟨hmin, -, -⟩ := (frameValidate_iff hinv.cfgOk f).mp hvalid
  have hsched : s.sched = entries k (f.map .rxByte) ++ (entries k [.rxIdle, .rxtStep] ++ more) := by
    rw [hsched, ← List.append_assoc]
    simp [entries]
  obtain ⟨p, v, hbytes⟩ := run_rxBytes (r := 2) f s hinv.cfgOk (by omega) hsched
  simp only [count, Nat.zero_add, Nat.add_zero] at hbytes
  obtain ⟨t, hrun, hend⟩ := run_accumulated (s := { s with
      sched := entries k [.rxIdle, .rxtStep] ++ more, pick := p, ret := v, mem := Memory.writeN s.mem (rxBufBase s.cfg) f
      rxCnt := f.length, rxIn := s.rxIn ++ f.map .rxByte })
    hinv.cfgOk hinv.prxLens hinv.prxTags rfl (by omega) fits tag queue room (Memory.readN_writeN_self _ _ f) free rfl
  exact ⟨t, hbytes.trans hrun, hend⟩

end Sys2Proof.Machine
